-- ==== Sys2Proof/Word.lean ====
section
/-! DEFINITION. The widths the spec gives: bytes, the 5-bit length register and the three selector words. -/

namespace Sys2Proof

/-- A byte of the stream, of the frame and of the buffer (R7, R13, R74). -/
abbrev Byte := BitVec 8

/-- The 5-bit length register (R12). -/
abbrev Len := BitVec 5

/-- The synchronizer's decode key, `len[4:0] ‖ byte[7:0]` (R39). -/
abbrev Key := BitVec 13

/-- A host command code (R41). -/
abbrev Cmd := BitVec 2

/-- A decoder micro-step code (R43). -/
abbrev StepCode := BitVec 4

end Sys2Proof
end

