-- ==== Sys2Proof/Config.lean ====
section
/-! DEFINITION. What is fixed for the machine: the constants of R6 and the free values the spec leaves open. -/

namespace Sys2Proof

/-- The gain mode (R15): STD, or the alternate branch. -/
inductive GainMode where
  | std
  | alt
  deriving DecidableEq, Repr

/-- `FRAME_LEN` (R6). -/
abbrev Config.frameLen : Nat := 23

/-- `HEADER` (R6). -/
abbrev Config.header : Byte := 0x55

/-- `CK_SEED` (R6): decimal 88. -/
abbrev Config.ckSeed : Byte := 88

/-- `CK_INDEX` (R6): the checksum byte, "byte 23 (index 22)". -/
abbrev Config.ckIndex : Nat := 22

/-- `I_OFF` (R6). -/
abbrev Config.iOff : Nat := 1

/-- `V_OFF` (R6). -/
abbrev Config.vOff : Nat := 4

/-- `P_OFF` (R6). -/
abbrev Config.pOff : Nat := 10

/-- `POLL_CMD` (R6, R38): 0x58 first. -/
abbrev Config.pollCmd : List Byte := [0x58, 0xAA]

/-- `REL_TOL` (R6): 1e-6 relative. -/
abbrev Config.relTol : Rat := 1 / 1000000

/-- The shipped value of the parameter `GAIN_MODE` (R6, R15). -/
abbrev Config.gainModeParam : GainMode := .std

/-- DESIGN CHOICE (unsafe): the OPEN parameter `SINK_PRESENT` at power-on is 1111, the configuration
spec/95_test_vectors.md takes where a vector names none (notes/assumptions/2.md). -/
abbrev Config.sinkPresentParam : BitVec 4 := 0b1111

/-- The default of the parameter `P_ALT_DIV` (R6, R65, C8): 511610 as written (notes/assumptions/3.md). -/
abbrev Config.pAltDivDefault : Nat := 511610

/-- FREE VALUE (safe): the relative error of `OUT` at an exact value (R69). `OUT` clamps it to
`REL_TOL`, so every `OUT` that meets R69 is one choice of it (notes/assumptions/7.md). -/
opaque Config.outError : Rat → Rat

/-- FREE VALUE (safe): whether the zero `OUT(0)` is the negative one (R69 property 1, D8). -/
opaque Config.outZeroNegative : Bool

/-- FREE VALUE (safe): which of the 24 orders the n-th EMIT delivers in (R30, R71, D14). -/
opaque Config.emitOrder : Nat → Fin 24

/-- FREE VALUE (safe): what `F[i]` is for a byte list `F` that has no index `i`. Only a micro-step
run outside DECODE can read one: CHECK_STRUCT rejects such a list first (notes/assumptions/8.md). -/
opaque Config.absentByte : List Byte → Nat → Byte

end Sys2Proof
end

