-- ==== Sys2Proof/Syntax.lean ====
section
/-! DEFINITION. The operations, one constructor per row of spec/opcode_table.json (R42), and the selector
words of the three encoding spaces that choose them (R39, R41, R43). -/

namespace Sys2Proof

/-- A selector word: which space it belongs to, and its bits. `call` stands for the DECODE row, which
has no code of its own: RX_COMPLETE starts it (R57). -/
inductive Select where
  /-- `KEY[12:0]` (R39) -/
  | key (k : Key)
  /-- `CMD[1:0]` (R41) -/
  | cmd (c : Cmd)
  /-- `STEP[3:0]` (R43) -/
  | ustep (c : StepCode)
  /-- the invocation of DECODE (R57) -/
  | call
  deriving DecidableEq, Repr

/-- The operations (R42). A byte operation carries the KEY fields that its row leaves free. -/
inductive Instr where
  /-- FAULT: a KEY with `len ≥ 23` (R45) -/
  | fault (len : Len) (byte : Byte)
  /-- RX_HEADER (R49): its byte is 0x55 -/
  | rxHeader
  /-- RX_SKIP (R48) -/
  | rxSkip (byte : Byte)
  /-- RX_COMPLETE (R51) -/
  | rxComplete (byte : Byte)
  /-- RX_FILL (R50) -/
  | rxFill (len : Len) (byte : Byte)
  /-- NOP (R79) -/
  | nop
  /-- DRAIN (R52) -/
  | drain
  /-- POLL (R75) -/
  | poll
  /-- RESET (R93) -/
  | reset
  /-- DECODE (R57) -/
  | decode
  /-- CHECK_STRUCT, STEP 0 (R58) -/
  | checkStruct
  /-- CHECKSUM, STEP 1 (R59) -/
  | checksum
  /-- EXTRACT_I, STEP 2 (R62) -/
  | extractI
  /-- EXTRACT_V, STEP 3 (R63) -/
  | extractV
  /-- EXTRACT_P, STEP 4 (R64) -/
  | extractP
  /-- SCALE_I, STEP 5 (R66) -/
  | scaleI
  /-- SCALE_V, STEP 6 (R67) -/
  | scaleV
  /-- SCALE_P, STEP 7 (R68) -/
  | scaleP
  /-- PF, STEP 8 (R70) -/
  | pf
  /-- EMIT, STEP 9 (R71) -/
  | emit
  deriving DecidableEq, Repr

end Sys2Proof
end

