-- ==== Sys2Proof/WellFormed.lean ====
section
/-! DEFINITION. When an operation's operands are ones its encoding row admits (R40, R45). -/

namespace Sys2Proof

/-- The operand conditions of the synchronizer operation map (R40); the other spaces leave no operand. -/
def Instr.wellFormed : Instr → Bool
  | .fault len _ => decide (23 ≤ len.toNat)
  | .rxHeader => true
  | .rxSkip byte => byte != Config.header
  | .rxComplete _ => true
  | .rxFill len _ => decide (1 ≤ len.toNat) && decide (len.toNat ≤ 21)
  | .nop => true
  | .drain => true
  | .poll => true
  | .reset => true
  | .decode => true
  | .checkStruct => true
  | .checksum => true
  | .extractI => true
  | .extractV => true
  | .extractP => true
  | .scaleI => true
  | .scaleV => true
  | .scaleP => true
  | .pf => true
  | .emit => true

end Sys2Proof
end

