-- ==== Sys2Proof/Decode.lean ====
section
/-! DEFINITION. The decoder, total on every selector word, the encoder, and the words of
spec/opcode_table.json read as selector words. -/

namespace Sys2Proof

/-- Why the decoder refuses a selector word. -/
inductive Reject where
  /-- STEP 10..15: reserved, never produced (R45) -/
  | reservedStep (c : StepCode)
  deriving DecidableEq, Repr

/-- The `len[4:0]` field of a KEY (R39). -/
def keyLen (k : Key) : Len := k.extractLsb' 8 5

/-- The `byte[7:0]` field of a KEY (R39). -/
def keyByte (k : Key) : Byte := k.extractLsb' 0 8

/-- `KEY = len ‖ byte` (R39). -/
def mkKey (len : Len) (byte : Byte) : Key := len ++ byte

/-- The synchronizer operation map, rows in priority order (R40). -/
def decodeKey (k : Key) : Instr :=
  if 23 ≤ (keyLen k).toNat then .fault (keyLen k) (keyByte k)
  else if keyLen k = 0 then
    if keyByte k = Config.header then .rxHeader else .rxSkip (keyByte k)
  else if (keyLen k).toNat = 22 then .rxComplete (keyByte k)
  else .rxFill (keyLen k) (keyByte k)

/-- The host command codes (R41). -/
def decodeCmd (c : Cmd) : Instr :=
  if c = 0b00 then .nop
  else if c = 0b01 then .drain
  else if c = 0b10 then .poll
  else .reset

/-- The decode step codes (R43); 10..15 are reserved (R45). -/
def decodeStepCode (c : StepCode) : Except Reject Instr :=
  match c.toNat with
  | 0 => .ok .checkStruct
  | 1 => .ok .checksum
  | 2 => .ok .extractI
  | 3 => .ok .extractV
  | 4 => .ok .extractP
  | 5 => .ok .scaleI
  | 6 => .ok .scaleV
  | 7 => .ok .scaleP
  | 8 => .ok .pf
  | 9 => .ok .emit
  | _ => .error (.reservedStep c)

/-- The decoder: total, rejecting a reserved word by name. -/
def decode : Select → Except Reject Instr
  | .key k => .ok (decodeKey k)
  | .cmd c => .ok (decodeCmd c)
  | .ustep c => decodeStepCode c
  | .call => .ok .decode

/-- The encoder, from the match values of R40, R41 and R43. -/
def encode : Instr → Select
  | .fault len byte => .key (mkKey len byte)
  | .rxHeader => .key 0x0055
  | .rxSkip byte => .key (mkKey 0 byte)
  | .rxComplete byte => .key (mkKey 22 byte)
  | .rxFill len byte => .key (mkKey len byte)
  | .nop => .cmd 0b00
  | .drain => .cmd 0b01
  | .poll => .cmd 0b10
  | .reset => .cmd 0b11
  | .decode => .call
  | .checkStruct => .ustep 0
  | .checksum => .ustep 1
  | .extractI => .ustep 2
  | .extractV => .ustep 3
  | .extractP => .ustep 4
  | .scaleI => .ustep 5
  | .scaleV => .ustep 6
  | .scaleP => .ustep 7
  | .pf => .ustep 8
  | .emit => .ustep 9

/-- DESIGN CHOICE: which space a word of spec/opcode_table.json belongs to, from its size in bits. The
table's three spaces overlap as numbers (CMD 01 and STEP 1 are both the one-byte word 1), so two bytes
are a KEY, one byte below 4 is a CMD, another one-byte word below 16 a STEP, and no byte at all
the DECODE row, which has no bits (notes/assumptions/11.md). -/
def tableSelect (nbits w : Nat) : Option Select :=
  if nbits = 0 then
    if w = 0 then some .call else none
  else if nbits ≤ 8 then
    if w < 4 then some (.cmd (BitVec.ofNat 2 w))
    else if w < 16 then some (.ustep (BitVec.ofNat 4 w))
    else none
  else if nbits ≤ 16 then
    if w < 2 ^ 13 then some (.key (BitVec.ofNat 13 w)) else none
  else none

/-- The operation the decoder reads from a word numbered as spec/opcode_table.json numbers it. -/
def decodeTableWord (nbits w : Nat) : Option Instr :=
  match tableSelect nbits w with
  | none => none
  | some sel =>
    match decode sel with
    | .ok i => some i
    | .error _ => none

end Sys2Proof
end

