-- ==== Sys2Proof/Machine/State.lean ====
section
/-! DEFINITION. The machine's state as plain data (R10), with the environment's state and the event trace that
R17 says the model holds, the reasons a step can stop, and the state after reset (R20). -/

namespace Sys2Proof.Machine

/-- The four quantities, one sink port each (R76). -/
inductive Quantity where
  | voltage
  | current
  | power
  | powerFactor
  deriving DecidableEq, Repr

/-- A value of the OPEN number format `OUT_FMT` (R69), by what it denotes: a zero, signed or not (D8),
or a number (notes/assumptions/7.md). -/
inductive OutVal where
  | zero (negative : Bool)
  | num (x : Rat)
  deriving DecidableEq, Repr

/-- The two per-frame error causes with their recorded values (R80); also the two diagnostic
events (R77). -/
inductive FrameError where
  | invalidFrame
  | checksumMismatch (computed received : Byte)
  deriving DecidableEq, Repr

/-- What a frame with status OK carries in its result event (R44). -/
structure Reading where
  ckCalc : Byte
  ckRx : Byte
  rawI : Int
  rawV : Nat
  rawP : Int
  i : OutVal
  v : OutVal
  p : OutVal
  pf : OutVal
  deriving DecidableEq, Repr

/-- The result event of one completed frame (R44). Status 3 has no constructor: it is never produced. -/
inductive Result where
  | ok (r : Reading)
  | error (e : FrameError)
  deriving DecidableEq, Repr

/-- One output of the FSD, as the observation reads it (R17, R101). -/
inductive Event where
  /-- `Result(r)` (R44) -/
  | result (r : Result)
  /-- `Deliver(q, x)` (R76) -/
  | deliver (q : Quantity) (x : OutVal)
  /-- `Diag(e)` (R77) -/
  | diag (e : FrameError)
  /-- `TxBytes(s)`, one `write_bytes` call (R75) -/
  | tx (bytes : List Byte)
  deriving DecidableEq, Repr

/-- One line of what the environment does next. The first three are the lines of a stream program
(R46); the rest are the model's bench lines, which drive one byte step (R5, R47) or the decoder's
contract (R57, D18) on its own (notes/assumptions/5.md). -/
inductive Line where
  /-- `SRC`: the environment appends bytes to the byte source -/
  | src (bytes : List Byte)
  /-- `CONFIG`: the configuration taken at the next RESET, and at later ones until the next CONFIG
  (DESIGN CHOICE, entry 19) -/
  | config (gain : GainMode) (sinks : BitVec 4)
  /-- a host command by its code -/
  | cmd (c : Cmd)
  /-- bench: one byte step -/
  | byteStep
  /-- bench: hand a raw frame to the decoder -/
  | frame (F : List Byte)
  /-- bench: DECODE of the frame handed over -/
  | decodeCall
  /-- bench: one decoder micro-step by its code -/
  | ustep (c : StepCode)
  deriving DecidableEq, Repr

/-- The frame buffer: its live cells as (index, byte) pairs, indices strictly rising. A cell that is
not listed holds no value (R14). -/
abbrev Memory := List Host.Cell

/-- The MODEL's own: the values one DECODE computes, which live only inside the completing step (R10).
`result` is the record DECODE returns, once it has (R57). -/
structure Decoder where
  frame : List Byte
  ckCalc : Byte
  rawI : Int
  rawV : Nat
  rawP : Int
  xI : Rat
  xV : Rat
  xP : Rat
  outI : OutVal
  outV : OutVal
  outP : OutVal
  outPF : OutVal
  result : Option Result
  deriving DecidableEq, Repr

/-- The decoder between frames: nothing is kept (R10). DESIGN CHOICE (entry 5) for the idle values. -/
def Decoder.idle : Decoder where
  frame := []
  ckCalc := 0
  rawI := 0
  rawV := 0
  rawP := 0
  xI := 0
  xV := 0
  xP := 0
  outI := .zero false
  outV := .zero false
  outP := .zero false
  outPF := .zero false
  result := none

/-- The state. `len`, `buf`, `gainMode` and `sinkPresent` are the spec's (R10); `cfgGain`, `cfgSinks`
and `pAltDiv` are its parameters (R6); `src`, `host` and `trace` are the environment's (R17);
`dec` and `choices` are the model's own. -/
structure State where
  /-- the length register (R12) -/
  len : Len
  /-- the frame buffer (R13, R14) -/
  buf : Memory
  /-- `GAIN_MODE` (R15) -/
  gainMode : GainMode
  /-- `SINK_PRESENT` (R16): bit 0 voltage, 1 current, 2 power, 3 power factor -/
  sinkPresent : BitVec 4
  /-- the configuration input that RESET loads into `GAIN_MODE` (R93) -/
  cfgGain : GainMode
  /-- the configuration input that RESET loads into `SINK_PRESENT` (R93) -/
  cfgSinks : BitVec 4
  /-- the parameter `P_ALT_DIV` (R6, R65) -/
  pAltDiv : Nat
  /-- the bytes the byte source holds, oldest first (R74) -/
  src : List Byte
  /-- what the environment does next, first line first (R46, R101) -/
  host : List Line
  /-- every output so far, oldest first (R17, R101) -/
  trace : List Event
  /-- the values of the DECODE in progress -/
  dec : Decoder
  /-- how many delivery orders have been drawn from `Config.emitOrder` -/
  choices : Nat
  deriving DecidableEq, Repr

/-- Why the machine stops. -/
inductive Fault where
  /-- `len ≥ 23` at the start of a step. Raised by `step` for a byte or a host command, by FAULT and by
  SYNC_STEP; safe: the spec says a
  model that meets it faults, and no reachable state triggers it (R45, R91, D20). -/
  | unreachableLen
  /-- A buffer write at an index that does not exist (23 and above, R21). Raised by `storeByte`; safe:
  only a byte operation run with `len ≥ 23` reaches it. -/
  | bufferIndex
  /-- A buffer read of a cell that holds no value (R14). Raised by RX_COMPLETE; safe: only a state in
  which `buf` lacks a cell below `len` reaches it, and R19 excludes those. -/
  | staleRead
  deriving DecidableEq, Repr

/-- Why a step has no meaning in the model. -/
inductive Refusal where
  /-- An operation with no meaning yet. Raised by exec's refused arms; safe. No arm uses it. -/
  | notModelled (mnemonic : String)
  /-- A reserved STEP code, 10..15 (R45). Raised by `step` when the decoder rejects the word; safe.
  DESIGN CHOICE (notes/assumptions/21.md): the spec says only that no such code is produced. -/
  | reservedStep (c : StepCode)
  /-- The byte source holds fewer bytes than it counted (R74, D11: no move). Raised by SYNC_STEP on an
  empty source; toward proving as the spec says, and no DRAIN reaches it. -/
  | sourceContract
  deriving DecidableEq, Repr

/-- The outcome of an operation or of a step. -/
abbrev Outcome := Host.Outcome State Fault Refusal

/-- The machine right after reset (R20): `len` 0, the buffer empty, the configuration registers at
their parameters, and nothing waiting or emitted. -/
def State.reset : State where
  len := 0
  buf := []
  gainMode := Config.gainModeParam
  sinkPresent := Config.sinkPresentParam
  cfgGain := Config.gainModeParam
  cfgSinks := Config.sinkPresentParam
  pAltDiv := Config.pAltDivDefault
  src := []
  host := []
  trace := []
  dec := Decoder.idle
  choices := 0

end Sys2Proof.Machine
end

