-- ==== Sys2Proof/Machine/Flags.lean ====
section
/-! DEFINITION. The FSD keeps no flags (R18): a frame's status is in its result event, and the synchronizer's
state is a function of `len`. This file gives the codes of both. -/

namespace Sys2Proof.Machine

/-- The synchronizer states (R11). -/
inductive SyncState where
  | seeking
  | filling
  | frameReady
  | reserved
  deriving DecidableEq, Repr

/-- The synchronizer state as a function of the length alone (R11). -/
def syncStateOf (len : Len) : SyncState :=
  if len = 0 then .seeking
  else if len.toNat ≤ 22 then .filling
  else if len.toNat = 23 then .frameReady
  else .reserved

/-- SYNC_STATE of a state (R11). -/
def State.syncState (s : State) : SyncState := syncStateOf s.len

/-- The 2-bit SYNC_STATE code (R11). -/
def SyncState.code : SyncState → BitVec 2
  | .seeking => 0
  | .filling => 1
  | .frameReady => 2
  | .reserved => 3

/-- The `status` code of an error cause (R44, R80). -/
def FrameError.status : FrameError → BitVec 2
  | .invalidFrame => 1
  | .checksumMismatch _ _ => 2

/-- The 2-bit `status` of a result event (R44). -/
def Result.status : Result → BitVec 2
  | .ok _ => 0
  | .error e => e.status

/-- The 1-bit code of `GAIN_MODE` (R15). -/
def gainCode : GainMode → BitVec 1
  | .std => 0
  | .alt => 1

end Sys2Proof.Machine
end

