-- ==== Sys2Proof/Machine/Operands.lean ====
section
/-! DEFINITION. Every operand the decoder forms: frame bytes, the 24-bit fields, the checksum, the scale
constants, the output representation, the power factor, and the sinks of EMIT. -/

namespace Sys2Proof.Machine

/-- `F[i]` (R7). Where the list has no index `i` the spec states no value: a free one. -/
def frameByte (F : List Byte) (i : Nat) : Byte :=
  match F[i]? with
  | some b => b
  | none => Config.absentByte F i

/-- The 24-bit pattern of the field whose lowest index is `o` (R24, R34). -/
def field24 (F : List Byte) (o : Nat) : BitVec 24 :=
  frameByte F (o + 2) ++ frameByte F (o + 1) ++ frameByte F o

/-- An unsigned field: `zext_24(u)` (R36). -/
def unsignedField (F : List Byte) (o : Nat) : Nat := (field24 F o).toNat

/-- A signed field, by the subtraction R35 gives: bit 7 of the top byte decides. -/
def signedField (F : List Byte) (o : Nat) : Int :=
  if (frameByte F (o + 2)).getLsbD 7 then ((field24 F o).toNat : Int) - 16777216
  else ((field24 F o).toNat : Int)

/-- The 8-bit wraparound sum over bytes 0..21, seeded with 88 (R59). -/
def checksumSum (F : List Byte) : Byte :=
  (List.range 22).foldl (fun acc i => acc + frameByte F i) Config.ckSeed

/-- The computed checksum: the complement of the sum (R37, R59). -/
def checksumCalc (F : List Byte) : Byte := ~~~ checksumSum F

/-- The structural check: length 23 and header 0x55, length first (R58). -/
def structureOk (F : List Byte) : Bool :=
  decide (F.length = Config.frameLen) && decide (frameByte F 0 = Config.header)

/-- `K_I` (R65). -/
def kI : GainMode → Rat
  | .std => 1218 / 1000 / 305978
  | .alt => 1218 / 1000 / (305978 * 3)

/-- `K_V` (R65): the same in both gain modes. -/
def kV : Rat := 1218 / 1000 * (195051 / 100) / 37734390

/-- `K_P` (R65), per value of the parameter `P_ALT_DIV`. -/
def kP (pAltDiv : Nat) : GainMode → Rat
  | .std => 1218 / 1000 * (1218 / 1000) * (195051 / 100) / 1803870
  | .alt => 1218 / 1000 * (1218 / 1000) * (195051 / 100) / (pAltDiv : Rat)

/-- A relative error clamped to `REL_TOL` (R69 property 2). -/
def clampError (e : Rat) : Rat :=
  if e < -Config.relTol then -Config.relTol
  else if Config.relTol < e then Config.relTol
  else e

/-- `OUT : ℚ → OUT_FMT` (R69): a zero for 0, else a number within `REL_TOL` of `x`, which one being
free. It depends on `x` alone. -/
def out (x : Rat) : OutVal :=
  if x = 0 then .zero Config.outZeroNegative
  else .num (x * (1 + clampError (Config.outError x)))

/-- The number an output value denotes. -/
def OutVal.toRat : OutVal → Rat
  | .zero _ => 0
  | .num x => x

/-- The exact power factor (R70): a division only when the product is not zero. -/
def powerFactor (xI xV xP : Rat) : Rat :=
  if xI * xV ≠ 0 then xP / (xI * xV) else 0

/-- The `SINK_PRESENT` bit of a quantity (R16). -/
def Quantity.bit : Quantity → Nat
  | .voltage => 0
  | .current => 1
  | .power => 2
  | .powerFactor => 3

/-- Whether a quantity's sink is registered (R16). -/
def sinkOn (sinks : BitVec 4) (q : Quantity) : Bool := sinks.getLsbD q.bit

/-- The output value computed for a quantity (R71). -/
def Decoder.value (d : Decoder) (q : Quantity) : OutVal :=
  match q with
  | .voltage => d.outV
  | .current => d.outI
  | .power => d.outP
  | .powerFactor => d.outPF

/-- The four quantities in the order R71 lists them. -/
def quantities : List Quantity := [.voltage, .current, .power, .powerFactor]

/-- Take the elements at the given positions of what is left, one after another. -/
def arrange : List Nat → List Quantity → List Quantity
  | [], _ => []
  | k :: ks, qs =>
    match qs[k]? with
    | some q => q :: arrange ks (qs.eraseIdx k)
    | none => arrange ks qs

/-- The 24 orders of the four quantities (R71: "the order of the deliveries is unspecified"). -/
def deliveryOrder (k : Fin 24) : List Quantity :=
  arrange [k.val / 6, k.val / 2 % 3, k.val % 2, 0] quantities

/-- EMIT's deliveries in a given order: one for each sink that is present (R71). -/
def deliveriesIn (order : List Quantity) (sinks : BitVec 4) (d : Decoder) : List Event :=
  (order.filter (sinkOn sinks)).map fun q => .deliver q (d.value q)

end Sys2Proof.Machine
end

