-- ==== Sys2Proof/Machine/Ops.lean ====
section
/-! DEFINITION. The operations the meanings share: the frame buffer, the outputs, a decode's error path and its
return, and the end of a frame. -/

namespace Sys2Proof.Machine

/-- The canonical form of the buffer: indices strictly rising, each one of 0..22 (R21). A cell that is
not listed holds no value, so no entry can equal it. -/
abbrev Memory.wf (m : Memory) : Prop :=
  m.Pairwise (fun x y => x.1 < y.1) ∧ ∀ c ∈ m, c.1 < Config.frameLen

/-- What the cell at an index holds, if it holds a value (R14). -/
def Memory.read : Memory → Nat → Option Byte
  | [], _ => none
  | (k, v) :: m, a => if k = a then some v else Memory.read m a

/-- The buffer with one cell written, in canonical form. -/
def Memory.write : Memory → Nat → Byte → Memory
  | [], a, b => [(a, b)]
  | (k, v) :: m, a, b =>
    if a < k then (a, b) :: (k, v) :: m
    else if a = k then (a, b) :: m
    else (k, v) :: Memory.write m a b

/-- `MemRead(i, n)` (R8): `n` bytes from index `i`, if every cell holds a value. -/
def Memory.readBytes (m : Memory) (i : Nat) : Nat → Option (List Byte)
  | 0 => some []
  | n + 1 =>
    match Memory.read m i, Memory.readBytes m (i + 1) n with
    | some b, some bs => some (b :: bs)
    | _, _ => none

/-- Do `f` next, unless the machine has stopped. -/
def thenDo (o : Outcome) (f : State → Outcome) : Outcome :=
  match o with
  | .next s => f s
  | .fault r => .fault r
  | .refused r => .refused r

/-- `MemWrite(i, 1, b)` (R8): an index of 23 or above does not exist (R21). -/
def storeByte (i : Nat) (b : Byte) (s : State) : Outcome :=
  if i < Config.frameLen then .next { s with buf := Memory.write s.buf i b }
  else .fault .bufferIndex

/-- `MemWrite(len, 1, b)` then the new length: every buffer write is such an append (R22). -/
def appendByte (i : Nat) (b : Byte) (len : Len) (s : State) : Outcome :=
  thenDo (storeByte i b s) fun t => .next { t with len := len }

/-- One output, after those before it (R29, R30). -/
def State.emit (s : State) (e : Event) : State := { s with trace := s.trace ++ [e] }

/-- `len <- 0` (R22: "clearing the whole buffer"). The cells no rule reads any more are dropped. -/
def State.clearBuffer (s : State) : State := { s with len := 0, buf := [] }

/-- Hand a raw frame to the decoder, which keeps nothing from an earlier one (R10, R23). -/
def State.handFrame (s : State) (F : List Byte) : State :=
  { s with dec := { Decoder.idle with frame := F } }

/-- TAKING AN ERROR (R8 "raise", R83): the decode ends with the error result, and one diagnostic is
emitted. No FSD state changes: nothing is saved, no mode, mask or vector. DESIGN CHOICE
(notes/assumptions/20.md): the diagnostic, which R57 gives to DECODE's handler, is emitted here, so a
micro-step that raises outside any DECODE (a bench line) emits it too, with no result event. -/
def raiseError (e : FrameError) (s : State) : State :=
  { s.emit (.diag e) with dec := { s.dec with result := some (.error e) } }

/-- DECODE's next micro-step: it runs unless the decode has already ended (R83 point 1). -/
def unlessEnded (o : Outcome) (f : State → Outcome) : Outcome :=
  thenDo o fun t => if t.dec.result.isSome then .next t else f t

/-- The record a successful DECODE returns (R57, R44). -/
def readingOf (d : Decoder) : Reading where
  ckCalc := d.ckCalc
  ckRx := frameByte d.frame Config.ckIndex
  rawI := d.rawI
  rawV := d.rawV
  rawP := d.rawP
  i := d.outI
  v := d.outV
  p := d.outP
  pf := d.outPF

/-- DECODE's return with status 0 (R57). -/
def returnOk (s : State) : State :=
  { s with dec := { s.dec with result := some (.ok (readingOf s.dec)) } }

/-- `Result(r)` of the record DECODE returned (R44). -/
def State.emitResult (s : State) : State :=
  match s.dec.result with
  | some r => s.emit (.result r)
  | none => s

/-- RETURNING FROM A DECODE, in place of a return from a trap (R83, R84): the result event, then
SEEKING with an empty buffer, whatever the result. The decoder keeps nothing (R10). -/
def endFrame (s : State) : State := { s.emitResult.clearBuffer with dec := Decoder.idle }

/-- The result events of a trace, in order. -/
def resultsOf (t : List Event) : List Result :=
  t.filterMap fun e => match e with | .result r => some r | _ => none

/-- The diagnostic events of a trace, in order. -/
def diagsOf (t : List Event) : List FrameError :=
  t.filterMap fun e => match e with | .diag d => some d | _ => none

/-- The sink deliveries of a trace, in order. -/
def deliveriesOf (t : List Event) : List (Quantity × OutVal) :=
  t.filterMap fun e => match e with | .deliver q x => some (q, x) | _ => none

/-- The bytes of the command output, in order. -/
def txOf (t : List Event) : List Byte :=
  t.flatMap fun e => match e with | .tx bs => bs | _ => []

end Sys2Proof.Machine
end

