-- ==== Sys2Proof/Machine/Interfaces.lean ====
section
/-! DEFINITION. POLL and NOP (spec/43_interfaces.md). -/

namespace Sys2Proof.Machine

/-- POLL (R75): one `write_bytes` call; no FSD state is read or written. -/
def execPoll (s : State) : Outcome := .next (s.emit (.tx Config.pollCmd))

/-- NOP (R79): no effect. -/
def execNop (s : State) : Outcome := .next s

end Sys2Proof.Machine
end

