-- ==== Sys2Proof/Machine/Reset.lean ====
section
/-! DEFINITION. RESET (spec/70_reset_and_hazards.md). -/

namespace Sys2Proof.Machine

/-- RESET (R93): the buffer is emptied and the configuration inputs are loaded. The byte source and
every output are untouched. DESIGN CHOICE (notes/assumptions/19.md): with no CONFIG line since the last
RESET or power-on, the inputs are still the values taken then, and RESET loads them again. -/
def execReset (s : State) : Outcome :=
  .next { s.clearBuffer with gainMode := s.cfgGain, sinkPresent := s.cfgSinks }

end Sys2Proof.Machine
end

