-- ==== Sys2Proof/Machine/DecoderScale.lean ====
section
/-! DEFINITION. Field extraction, scaling, power factor and emit: STEP 2 to STEP 9 (spec/42_decoder_scale.md). -/

namespace Sys2Proof.Machine

/-- EXTRACT_I (R62). -/
def execExtractI (s : State) : Outcome :=
  .next { s with dec := { s.dec with rawI := signedField s.dec.frame Config.iOff } }

/-- EXTRACT_V (R63). -/
def execExtractV (s : State) : Outcome :=
  .next { s with dec := { s.dec with rawV := unsignedField s.dec.frame Config.vOff } }

/-- EXTRACT_P (R64). -/
def execExtractP (s : State) : Outcome :=
  .next { s with dec := { s.dec with rawP := signedField s.dec.frame Config.pOff } }

/-- SCALE_I (R66): the exact product, then OUT. -/
def execScaleI (s : State) : Outcome :=
  let x : Rat := (s.dec.rawI : Rat) * kI s.gainMode
  .next { s with dec := { s.dec with xI := x, outI := out x } }

/-- SCALE_V (R67). -/
def execScaleV (s : State) : Outcome :=
  let x : Rat := (s.dec.rawV : Rat) * kV
  .next { s with dec := { s.dec with xV := x, outV := out x } }

/-- SCALE_P (R68). -/
def execScaleP (s : State) : Outcome :=
  let x : Rat := (s.dec.rawP : Rat) * kP s.pAltDiv s.gainMode
  .next { s with dec := { s.dec with xP := x, outP := out x } }

/-- PF (R70): from the exact values, not from their outputs. -/
def execPf (s : State) : Outcome :=
  .next { s with dec := { s.dec with outPF := out (powerFactor s.dec.xI s.dec.xV s.dec.xP) } }

/-- EMIT (R71): a delivery to each sink that is present, in an order the spec leaves open. -/
def execEmit (s : State) : Outcome :=
  .next { s with
    trace := s.trace ++
      deliveriesIn (deliveryOrder (Config.emitOrder s.choices)) s.sinkPresent s.dec
    choices := s.choices + 1 }

end Sys2Proof.Machine
end

