-- ==== Sys2Proof/Machine/DecoderCheck.lean ====
section
/-! DEFINITION. The two checks and the decode sequence: STEP 0, STEP 1 and DECODE (spec/41_decoder_check.md). -/

namespace Sys2Proof.Machine

/-- CHECK_STRUCT (R58). What its raise does outside a DECODE is entry 20's choice. -/
def execCheckStruct (s : State) : Outcome :=
  if structureOk s.dec.frame then .next s
  else .next (raiseError .invalidFrame s)

/-- CHECKSUM (R59). What its raise does outside a DECODE is entry 20's choice. -/
def execChecksum (s : State) : Outcome :=
  let ck := checksumCalc s.dec.frame
  let rx := frameByte s.dec.frame Config.ckIndex
  let t : State := { s with dec := { s.dec with ckCalc := ck } }
  if ck = rx then .next t
  else .next (raiseError (.checksumMismatch ck rx) t)

/-- DECODE (R57): STEP 0 to 9 in order (R43), ending at the first error, on the frame handed over. -/
def execDecode (s : State) : Outcome :=
  let o := execCheckStruct (s.handFrame s.dec.frame)
  let o := unlessEnded o execChecksum
  let o := unlessEnded o execExtractI
  let o := unlessEnded o execExtractV
  let o := unlessEnded o execExtractP
  let o := unlessEnded o execScaleI
  let o := unlessEnded o execScaleV
  let o := unlessEnded o execScaleP
  let o := unlessEnded o execPf
  let o := unlessEnded o execEmit
  unlessEnded o fun t => .next (returnOk t)

end Sys2Proof.Machine
end

