-- ==== Sys2Proof/Machine/Synchronizer.lean ====
section
/-! DEFINITION. The byte operations, the byte-step dispatcher and DRAIN (spec/40_synchronizer.md), and the FAULT row. -/

namespace Sys2Proof.Machine

/-- FAULT (R45): UNREACHABLE_LEN, never cleared. -/
def execFault (_ : State) : Outcome := .fault .unreachableLen

/-- RX_SKIP (R48): the byte is discarded. -/
def execRxSkip (s : State) : Outcome := .next s

/-- RX_HEADER (R49). -/
def execRxHeader (s : State) : Outcome := appendByte 0 Config.header 1 s

/-- RX_FILL (R50). -/
def execRxFill (byte : Byte) (s : State) : Outcome :=
  appendByte s.len.toNat byte (s.len + 1) s

/-- RX_COMPLETE (R51): append, decode the frame, emit the result, clear. -/
def execRxComplete (byte : Byte) (s : State) : Outcome :=
  thenDo (appendByte 22 byte 23 s) fun t =>
    match Memory.readBytes t.buf 0 Config.frameLen with
    | none => .fault .staleRead
    | some F => thenDo (execDecode (t.handFrame F)) fun u => .next (endFrame u)

/-- SYNC_STEP (R47): one consuming read, then exactly one byte operation. An empty source has no move
(R74, D11). -/
def syncStep (s : State) : Outcome :=
  match s.src with
  | [] => .refused .sourceContract
  | byte :: rest =>
    if 23 ≤ s.len.toNat then .fault .unreachableLen
    else
      let t : State := { s with src := rest }
      if s.len = 0 ∧ byte = Config.header then execRxHeader t
      else if s.len = 0 then execRxSkip t
      else if s.len.toNat = 22 then execRxComplete byte t
      else execRxFill byte t

/-- `repeat n times: SYNC_STEP()` (R52). -/
def syncSteps : Nat → State → Outcome
  | 0, s => .next s
  | n + 1, s => thenDo (syncStep s) (syncSteps n)

/-- DRAIN (R52): the count is read once, at the start (D10). -/
def execDrain (s : State) : Outcome := syncSteps s.src.length s

end Sys2Proof.Machine
end

