-- ==== Sys2Proof/Machine/Dispatch.lean ====
section
/-! DEFINITION. One arm per operation. -/

namespace Sys2Proof.Machine

def exec (i : Instr) (s : State) : Host.Outcome State Fault Refusal :=
  match i with
  -- KEY rows (R40)
  | .fault _ _ => Sys2Proof.Machine.execFault s
  | .rxHeader => Sys2Proof.Machine.execRxHeader s
  | .rxSkip _ => Sys2Proof.Machine.execRxSkip s
  | .rxComplete byte => Sys2Proof.Machine.execRxComplete byte s
  | .rxFill _ byte => Sys2Proof.Machine.execRxFill byte s
  -- CMD rows (R41)
  | .nop => Sys2Proof.Machine.execNop s
  | .drain => Sys2Proof.Machine.execDrain s
  | .poll => Sys2Proof.Machine.execPoll s
  | .reset => Sys2Proof.Machine.execReset s
  -- DECODE and the STEP rows (R43)
  | .decode => Sys2Proof.Machine.execDecode s
  | .checkStruct => Sys2Proof.Machine.execCheckStruct s
  | .checksum => Sys2Proof.Machine.execChecksum s
  | .extractI => Sys2Proof.Machine.execExtractI s
  | .extractV => Sys2Proof.Machine.execExtractV s
  | .extractP => Sys2Proof.Machine.execExtractP s
  | .scaleI => Sys2Proof.Machine.execScaleI s
  | .scaleV => Sys2Proof.Machine.execScaleV s
  | .scaleP => Sys2Proof.Machine.execScaleP s
  | .pf => Sys2Proof.Machine.execPf s
  | .emit => Sys2Proof.Machine.execEmit s

end Sys2Proof.Machine
end

