-- ==== Sys2Proof/Machine/Fetch.lean ====
section
/-! DEFINITION. What the next step is to run: the selector word formed from the environment's next line, and the
placing of a word where the next step finds it. -/

namespace Sys2Proof.Machine

/-- What a step finds to do. -/
inductive Fetched where
  /-- no line is left: the run has ended and the FSD is idle (R90, R101) -/
  | idle
  /-- an action of the environment alone -/
  | environment (t : State)
  /-- a selector word, and the state in which its operation runs -/
  | operation (sel : Select) (t : State)
  deriving DecidableEq, Repr

/-- The environment's next line. A command or a bench line selects an operation; a byte step forms its
KEY from `len` and the byte it removes from the source (R28, R39, R47), and is not issued when the
source is empty (R52, R98). -/
def fetch (s : State) : Fetched :=
  match s.host with
  | [] => .idle
  | .src bytes :: rest => .environment { s with host := rest, src := s.src ++ bytes }
  | .config gain sinks :: rest =>
    .environment { s with host := rest, cfgGain := gain, cfgSinks := sinks }
  | .cmd c :: rest => .operation (.cmd c) { s with host := rest }
  | .byteStep :: rest =>
    match s.src with
    | [] => .environment { s with host := rest }
    | byte :: bytes =>
      .operation (.key (mkKey s.len byte)) { s with host := rest, src := bytes }
  | .frame F :: rest => .environment { s.handFrame F with host := rest }
  | .decodeCall :: rest => .operation .call { s with host := rest }
  | .ustep c :: rest => .operation (.ustep c) { s with host := rest }

/-- Whether a selector word starts a step of the FSD (R5): one byte, or one host command. A micro-step
and DECODE run inside a step, where `len` is 23 (R11), so they start none. -/
def startsStep : Select → Bool
  | .key _ => true
  | .cmd _ => true
  | .ustep _ => false
  | .call => false

/-- UNREACHABLE_LEN: `len ≥ 23` at the start of a step, whatever the step is (R12, R45, D20;
notes/assumptions/12.md). -/
def stepFaults (sel : Select) (s : State) : Bool := startsStep sel && decide (23 ≤ s.len.toNat)

/-- A buffer of `n` live cells, the header first (R13); the index space ends at 22. -/
def headerFill (n : Nat) : Memory :=
  (List.range (min n Config.frameLen)).map fun i => (i, if i = 0 then Config.header else 0)

/-- The state with a selector word where the next step finds it. A KEY is formed from `len` and the
source's next byte, so both are set; the buffer is filled only where its length must change. -/
def placeSelect (s : State) : Select → State
  | .cmd c => { s with host := .cmd c :: s.host }
  | .ustep c => { s with host := .ustep c :: s.host }
  | .call => { s with host := .decodeCall :: s.host }
  | .key k =>
    { s with
      len := keyLen k
      buf := if s.len = keyLen k then s.buf else headerFill (keyLen k).toNat
      src := keyByte k :: s.src
      host := .byteStep :: s.host }

end Sys2Proof.Machine
end

