-- ==== Sys2Proof/Machine/Step.lean ====
section
/-! DEFINITION. One step of the machine (R5): the environment's next line, and the operation it selects. -/

namespace Sys2Proof.Machine

/-- One step: fetch, check the length, decode, run. With no line left the FSD is idle and its state is held (R90). -/
def step (s : State) : Host.Outcome State Fault Refusal :=
  match fetch s with
  | .idle => .next s
  | .environment t => .next t
  | .operation sel t =>
    if stepFaults sel t then .fault .unreachableLen
    else
      match decode sel with
      | .ok i => exec i t
      | .error (.reservedStep c) => .refused (.reservedStep c)

/-- `s` with a word of spec/opcode_table.json where the next step fetches; a word that is no selector
word changes nothing. -/
def State.withFetchWord (s : State) (nbits w : Nat) : State :=
  match tableSelect nbits w with
  | some sel => placeSelect s sel
  | none => s

end Sys2Proof.Machine
end

