-- ==== Sys2Proof/Safety.lean ====
section
/-! DEFINITION. What a safe state and a safe run are, in the terms the statements use. -/

namespace Sys2Proof.Machine

/-- R19 items 1 and 2, with the buffer's cells being exactly those below `len` (R13, R14). -/
abbrev State.Inv (s : State) : Prop :=
  s.len.toNat ≤ 22 ∧
  s.buf.map Prod.fst = List.range s.len.toNat ∧
  (1 ≤ s.len.toNat → Memory.read s.buf 0 = some Config.header)

/-- The decoder keeps nothing (R10). -/
abbrev State.DecoderIdle (s : State) : Prop := s.dec = Decoder.idle

/-- A line of a stream program (R46), not a bench line. -/
def Line.isProgram : Line → Bool
  | .src _ => true
  | .config _ _ => true
  | .cmd _ => true
  | .byteStep => false
  | .frame _ => false
  | .decodeCall => false
  | .ustep _ => false

/-- Every line left is a line of a stream program: the FSD as its host can drive it (R78). -/
abbrev State.HostDriven (s : State) : Prop := ∀ l ∈ s.host, l.isProgram = true

/-- A line that carries no reserved STEP code (R45). -/
def Line.legal : Line → Bool
  | .ustep c => decide (c.toNat ≤ 9)
  | _ => true

/-- Neither a fault nor a refusal. -/
abbrev completes (o : Outcome) : Prop := ∃ t, o = .next t

/-- `k` steps, ending at the first stop. -/
def runSteps : Nat → State → Outcome
  | 0, s => .next s
  | k + 1, s => thenDo (step s) (runSteps k)

/-- The rows of the synchronizer operation map below FAULT, in priority order, as the (match, mask)
pairs R40 and spec/opcode_table.json print, RX_FILL as its six blocks. -/
def keyRows : List (Key × Key × (Key → Instr)) :=
  [(0x0055, 0x1FFF, fun _ => .rxHeader),
   (0x0000, 0x1F00, fun k => .rxSkip (keyByte k)),
   (0x1600, 0x1F00, fun k => .rxComplete (keyByte k)),
   (0x0100, 0x1F00, fun k => .rxFill (keyLen k) (keyByte k)),
   (0x0200, 0x1E00, fun k => .rxFill (keyLen k) (keyByte k)),
   (0x0400, 0x1C00, fun k => .rxFill (keyLen k) (keyByte k)),
   (0x0800, 0x1800, fun k => .rxFill (keyLen k) (keyByte k)),
   (0x1000, 0x1C00, fun k => .rxFill (keyLen k) (keyByte k)),
   (0x1400, 0x1E00, fun k => .rxFill (keyLen k) (keyByte k))]

/-- `F[i]` as a number, for an index the list has. -/
def byteAt (F : List Byte) (i : Nat) : Nat := (F.getD i 0).toNat

/-- The wide sum of R60, reduced at the end: `(88 + F[0] + … + F[21]) mod 256`. -/
def wideSum (F : List Byte) : Nat := (88 + ((F.take 22).map BitVec.toNat).sum) % 256

/-- The checksum byte R37 asks for: the 8-bit complement of the sum. -/
def expectedChecksum (F : List Byte) : Byte := BitVec.ofNat 8 (255 - wideSum F)

/-- `(b[o+2] << 16) | (b[o+1] << 8) | b[o]` as a number (R24). -/
def le24 (F : List Byte) (o : Nat) : Nat :=
  byteAt F (o + 2) * 65536 + byteAt F (o + 1) * 256 + byteAt F o

/-- `sext_24` (R7). -/
def sext24 (u : Nat) : Int := if 8388608 ≤ u then (u : Int) - 16777216 else (u : Int)

/-- A frame of the right shape: 23 bytes, the first 0x55 (R58). -/
abbrev shapedFrame (F : List Byte) : Prop := F.length = 23 ∧ F.getD 0 0 = 0x55

/-- A frame that passes both checks (R58, R59). -/
abbrev goodFrame (F : List Byte) : Prop := shapedFrame F ∧ F.getD 22 0 = expectedChecksum F

/-- The reading R57 returns for a good frame, from the rules of 42_decoder_scale.md. -/
def expectedReading (gain : GainMode) (pAltDiv : Nat) (F : List Byte) : Reading :=
  let rI := sext24 (le24 F 1)
  let rV := le24 F 4
  let rP := sext24 (le24 F 10)
  let x : Rat := (rI : Rat) * kI gain
  let y : Rat := (rV : Rat) * kV
  let z : Rat := (rP : Rat) * kP pAltDiv gain
  { ckCalc := expectedChecksum F
    ckRx := F.getD 22 0
    rawI := rI
    rawV := rV
    rawP := rP
    i := out x
    v := out y
    p := out z
    pf := out (if x * y ≠ 0 then z / (x * y) else 0) }

/-- The deliveries of a reading to the sinks that are present, in the order R71 lists them. -/
def presentDeliveries (sinks : BitVec 4) (v i p pf : OutVal) : List Event :=
  (if sinks.getLsbD 0 then [Event.deliver .voltage v] else []) ++
  (if sinks.getLsbD 1 then [Event.deliver .current i] else []) ++
  (if sinks.getLsbD 2 then [Event.deliver .power p] else []) ++
  (if sinks.getLsbD 3 then [Event.deliver .powerFactor pf] else [])

end Sys2Proof.Machine
end

