-- ==== Sys2Proof/Certificates/Slice0/Obligations.lean ====
section
/-! DEFINITION. The statements. Each docstring names the rule it formalises; a clause that is the model's choice names its entry. -/

open Sys2Proof Sys2Proof.Machine

/-- Reset: len 0, SEEKING, the configuration registers at their parameters, shipped gain STD (R20). -/
def Obligations.ResetLeavesTheTableValues : Prop :=
  State.reset.len = 0 ∧ State.reset.syncState = .seeking ∧ State.reset.syncState.code = 0 ∧
    State.reset.gainMode = Config.gainModeParam ∧ Config.gainModeParam = .std ∧ gainCode .std = 0 ∧
    State.reset.sinkPresent = Config.sinkPresentParam

/-- The state after reset meets the invariant and the decoder is idle (R19, R20, R10). -/
def Obligations.InvariantHoldsAtReset : Prop :=
  State.reset.Inv ∧ State.reset.DecoderIdle

/-- Every step keeps: len ≤ 22, exactly the cells below len live, buf[0] = 0x55 when len ≥ 1 (R19, R12, R13, R22). -/
def Obligations.StepKeepsInvariant : Prop :=
  ∀ s t : State, s.Inv → step s = .next t → t.Inv

/-- GAIN_MODE and SINK_PRESENT change only through RESET, which loads the configuration inputs (R96). -/
def Obligations.ConfigurationChangesByResetAlone : Prop :=
  ∀ s t : State, step s = .next t → t.gainMode ≠ s.gainMode ∨ t.sinkPresent ≠ s.sinkPresent →
    (∃ rest, s.host = .cmd 0b11 :: rest) ∧ t.gainMode = s.cfgGain ∧ t.sinkPresent = s.cfgSinks

/-- From the invariant every step with no reserved STEP code answers a next state (R91, R45, R19). -/
def Obligations.EveryStepFromInvariantCompletes : Prop :=
  ∀ s : State, s.Inv → (∀ l ∈ s.host.head?, l.legal = true) → completes (step s)

/-- No stream program makes the FSD fault or stop, and every state it reaches meets the invariant (R91, R19, R56). -/
def Obligations.HostDrivenRunsNeverStop : Prop :=
  ∀ (k : Nat) (s : State), s.Inv → s.HostDriven → ∃ t, runSteps k s = .next t ∧ t.Inv

/-- len ≥ 23 at the start of a step faults with UNREACHABLE_LEN: a byte step, every host command, FAULT, and DRAIN at its first byte (R5, R12, R45, R47, R91). -/
def Obligations.UnreachableLenFaults : Prop :=
  (∀ (len : Len) (byte : Byte) (s : State), exec (.fault len byte) s = .fault .unreachableLen) ∧
    (∀ (s : State) (rest : List Line) (byte : Byte) (bytes : List Byte), 23 ≤ s.len.toNat →
      s.host = .byteStep :: rest → s.src = byte :: bytes → step s = .fault .unreachableLen) ∧
    (∀ (s : State) (rest : List Line) (c : Cmd), 23 ≤ s.len.toNat → s.host = .cmd c :: rest →
      step s = .fault .unreachableLen) ∧
    (∀ (s : State) (byte : Byte) (bytes : List Byte), 23 ≤ s.len.toNat →
      s.src = byte :: bytes → exec .drain s = .fault .unreachableLen)

/-- A STEP code 10 to 15, which only a bench line can carry, is refused by its name (model's choice, entries 5 and 21), and no other code is (R45, R43). -/
def Obligations.ReservedStepCodesAreRefused : Prop :=
  (∀ c : StepCode, (∃ i, decode (.ustep c) = .ok i) ↔ c.toNat ≤ 9) ∧
    ∀ (s : State) (c : StepCode) (rest : List Line), s.host = .ustep c :: rest → 10 ≤ c.toNat →
      step s = .refused (.reservedStep c)

/-- RX_SKIP: selected by len 0 and a byte other than 0x55; changes nothing, emits nothing (R48). -/
def Obligations.RxSkipDiscardsTheByte : Prop :=
  (∀ byte : Byte, byte ≠ 0x55 → decode (.key (mkKey 0 byte)) = .ok (.rxSkip byte)) ∧
    ∀ (byte : Byte) (s : State), exec (.rxSkip byte) s = .next s

/-- RX_HEADER: selected by KEY 0x0055; buf[0] becomes 0x55, len becomes 1 (FILLING), nothing else changes (R49). -/
def Obligations.RxHeaderStartsAFrame : Prop :=
  decode (.key 0x0055) = .ok .rxHeader ∧
    ∀ s : State, ∃ t, exec .rxHeader s = .next t ∧ t.len = 1 ∧ t.syncState = .filling ∧
      Memory.read t.buf 0 = some 0x55 ∧ (∀ a, a ≠ 0 → Memory.read t.buf a = Memory.read s.buf a) ∧
      t = { s with len := t.len, buf := t.buf }

/-- RX_FILL: with len 1..21 any byte, 0x55 too, is stored at buf[len] and len goes up by 1; nothing else changes (R50). -/
def Obligations.RxFillAppendsAnyByte : Prop :=
  (∀ (len : Len) (byte : Byte), 1 ≤ len.toNat → len.toNat ≤ 21 →
      decode (.key (mkKey len byte)) = .ok (.rxFill len byte)) ∧
    ∀ (len : Len) (byte : Byte) (s : State), 1 ≤ s.len.toNat → s.len.toNat ≤ 21 →
      ∃ t, exec (.rxFill len byte) s = .next t ∧ t.len.toNat = s.len.toNat + 1 ∧
        t.syncState = .filling ∧ Memory.read t.buf s.len.toNat = some byte ∧
        (∀ a, a ≠ s.len.toNat → Memory.read t.buf a = Memory.read s.buf a) ∧
        t = { s with len := t.len, buf := t.buf }

/-- RX_COMPLETE: DECODE of the 23 bytes, its result event, then len 0 whatever the result; never InvalidFrame (R51, R14). -/
def Obligations.RxCompleteDecodesAndClears : Prop :=
  (∀ byte : Byte, decode (.key (mkKey 22 byte)) = .ok (.rxComplete byte)) ∧
    ∀ (byte : Byte) (s : State), s.Inv → s.len = 22 →
      ∃ t u r, exec (.rxComplete byte) s = .next t ∧
        exec .decode (s.handFrame (s.buf.map Prod.snd ++ [byte])) = .next u ∧
        u.dec.result = some r ∧ r ≠ .error .invalidFrame ∧ t.syncState = .seeking ∧
        (∀ a, Memory.read t.buf a = none) ∧
        t = { s with
          len := 0
          buf := []
          dec := Decoder.idle
          trace := u.trace ++ [.result r]
          choices := u.choices }

/-- DRAIN (CMD 01) with no byte available is a no-op (R52, R41). -/
def Obligations.DrainOfEmptySourceDoesNothing : Prop :=
  decode (.cmd 0b01) = .ok .drain ∧ ∀ s : State, s.src = [] → exec .drain s = .next s

/-- DRAIN completes from the invariant, consumes every counted byte, and leaves configuration and host lines alone (R52, R56, R32). -/
def Obligations.DrainConsumesEveryCountedByte : Prop :=
  ∀ s : State, s.Inv → ∃ t new, exec .drain s = .next t ∧ t.src = [] ∧ t.Inv ∧
    t.trace = s.trace ++ new ∧
    t = { s with
      len := t.len
      buf := t.buf
      src := t.src
      trace := t.trace
      dec := t.dec
      choices := t.choices }

/-- DRAIN equals as many KEY-selected byte steps of the machine as the source holds bytes (R52, R47, R40, R5). -/
def Obligations.DrainIsItsByteSteps : Prop :=
  ∀ s : State, exec .drain s =
    runSteps s.src.length
      { s with host := List.replicate s.src.length Line.byteStep ++ s.host }

/-- One DRAIN of s1 ++ s2 equals a DRAIN of s1 then a DRAIN of s2; junk before a frame changes nothing (R53). -/
def Obligations.DrainChunkingInvariance : Prop :=
  (∀ (s : State) (a b : List Byte), s.Inv →
      ∃ u, exec .drain { s with src := a } = .next u ∧
        exec .drain { u with src := b } = exec .drain { s with src := a ++ b }) ∧
    ∀ (s : State) (junk rest : List Byte), s.len = 0 → (∀ x ∈ junk, x ≠ 0x55) →
      exec .drain { s with src := junk ++ rest } = exec .drain { s with src := rest }

/-- After a header in SEEKING the next 22 bytes are its frame whatever they are, decoded once; the rest go on from SEEKING (R54, R50, R51). -/
def Obligations.AcceptedHeaderTakesTwentyTwoBytes : Prop :=
  ∀ (s : State) (p rest : List Byte), s.Inv → s.len = 0 → p.length = 22 →
    ∃ u r, exec .decode (s.handFrame (0x55 :: p)) = .next u ∧ u.dec.result = some r ∧
      exec .drain { s with src := 0x55 :: (p ++ rest) } =
        exec .drain { s with
          src := rest
          dec := Decoder.idle
          trace := u.trace ++ [.result r]
          choices := u.choices }

/-- Bytes that do not complete a frame are appended in order and held in FILLING; nothing is emitted (R99, R50, R52). -/
def Obligations.PartialFrameIsHeld : Prop :=
  ∀ (s : State) (bytes : List Byte), s.Inv → 1 ≤ s.len.toNat →
    s.len.toNat + bytes.length ≤ 22 →
    ∃ t, exec .drain { s with src := bytes } = .next t ∧
      t.len.toNat = s.len.toNat + bytes.length ∧ t.syncState = .filling ∧ t.Inv ∧
      t.buf.map Prod.snd = s.buf.map Prod.snd ++ bytes ∧
      t = { s with
        src := []
        len := t.len
        buf := t.buf }

/-- A DRAIN of n bytes from length len0 emits at most (len0 + n) / 23 result events and ends with len ≤ 22 (R56, R100). -/
def Obligations.CompletionsAreBounded : Prop :=
  ∀ s : State, s.Inv → ∃ t new, exec .drain s = .next t ∧ t.trace = s.trace ++ new ∧
    (resultsOf new).length ≤ (s.len.toNat + s.src.length) / 23 ∧ t.len.toNat ≤ 22

/-- No step of a stream program reports InvalidFrame, on the diagnostic port or in a result event (R81, R51). -/
def Obligations.IntegratedFsdNeverReportsInvalidFrame : Prop :=
  ∀ s t : State, s.Inv → s.HostDriven → step s = .next t →
    ∃ new, t.trace = s.trace ++ new ∧ Event.diag .invalidFrame ∉ new ∧
      Event.result (.error .invalidFrame) ∉ new

/-- A completed frame gives one result, last (DEDUCED, entry 15): OK after its present deliveries, or a mismatch after one diagnostic and no delivery (R44, R51, R29, R57, R83, R71). -/
def Obligations.CompletedFrameOutputs : Prop :=
  ∀ (byte : Byte) (s : State), s.Inv → s.len = 22 →
    let F := s.buf.map Prod.snd ++ [byte]
    let r := expectedReading s.gainMode s.pAltDiv F
    ∃ t ds, exec (.rxComplete byte) s = .next t ∧
      ((goodFrame F ∧ ds.Perm (presentDeliveries s.sinkPresent r.v r.i r.p r.pf) ∧
          t.trace = s.trace ++ ds ++ [.result (.ok r)] ∧ (Result.ok r).status = 0) ∨
        (¬ goodFrame F ∧
          t.trace = s.trace ++
            [.diag (.checksumMismatch (expectedChecksum F) byte),
              .result (.error (.checksumMismatch (expectedChecksum F) byte))] ∧
          (Result.error (.checksumMismatch (expectedChecksum F) byte)).status = 2))

/-- No step removes, changes or reorders an output: a step only appends (R29, R30). -/
def Obligations.OutputsOnlyGrow : Prop :=
  ∀ s t : State, step s = .next t → ∃ new, t.trace = s.trace ++ new

/-- On the lines of a stream program the decoder holds nothing between steps (R10, R23). -/
def Obligations.DecoderKeepsNothingBetweenSteps : Prop :=
  ∀ s t : State, s.HostDriven → s.DecoderIdle → step s = .next t → t.DecoderIdle

/-- No operation but DRAIN reads or changes the byte source, and none changes the host's lines (R28, R74, R75, R79, R93). -/
def Obligations.OnlyDrainReadsTheSource : Prop :=
  ∀ (i : Instr) (s t : State), i ≠ .drain → exec i s = .next t →
    t.src = s.src ∧ t.host = s.host ∧
      ∀ bytes : List Byte, exec i { s with src := bytes } = .next { t with src := bytes }

/-- CHECK_STRUCT (STEP 0): passes a 23-byte frame headed 0x55 unchanged, else raises InvalidFrame (its diagnostic emitted here: model's choice, entry 20) (R58, R57). -/
def Obligations.CheckStructTestsLengthThenHeader : Prop :=
  decode (.ustep 0) = .ok .checkStruct ∧
    ∀ s : State, (shapedFrame s.dec.frame → exec .checkStruct s = .next s) ∧
      (¬ shapedFrame s.dec.frame → exec .checkStruct s = .next { s with
        dec := { s.dec with result := some (.error .invalidFrame) }
        trace := s.trace ++ [.diag .invalidFrame] })

/-- CHECKSUM (STEP 1): calc = ~(88 + F[0..21]) mod 256; F[22] = calc passes, else ChecksumMismatch(calc, F[22]) (its diagnostic emitted here: entry 20) (R59, R57). -/
def Obligations.ChecksumComparesTheComplementedSum : Prop :=
  decode (.ustep 1) = .ok .checksum ∧
    ∀ (s : State) (rx : Byte), s.dec.frame.length = 23 → s.dec.frame[22]? = some rx →
      (rx = expectedChecksum s.dec.frame →
        exec .checksum s = .next { s with dec := { s.dec with ckCalc := rx } }) ∧
      (rx ≠ expectedChecksum s.dec.frame →
        exec .checksum s = .next { s with
          dec := { s.dec with
            ckCalc := expectedChecksum s.dec.frame
            result := some (.error (.checksumMismatch (expectedChecksum s.dec.frame) rx)) }
          trace := s.trace ++
            [.diag (.checksumMismatch (expectedChecksum s.dec.frame) rx)] })

/-- The 8-bit wrapping sum equals the wide sum mod 256, in every order of the 22 additions (R60). -/
def Obligations.AccumulatorLaw : Prop :=
  ∀ F : List Byte, F.length = 23 →
    (checksumSum F).toNat = wideSum F ∧
      ∀ order : List Nat, order.Perm (List.range 22) →
        order.foldl (fun acc i => acc + frameByte F i) 88 = checksumSum F

/-- Changing one byte of a good frame: byte 0 gives InvalidFrame, bytes 1..22 ChecksumMismatch; cancelling changes of bytes 7 and 8 pass (R61). -/
def Obligations.SingleByteChangesAreDetected : Prop :=
  ∀ (s : State) (F : List Byte), goodFrame F →
    (∀ b : Byte, b ≠ F.getD 0 0 → ∃ t, exec .decode (s.handFrame (F.set 0 b)) = .next t ∧
      t.dec.result = some (.error .invalidFrame)) ∧
    (∀ (i : Nat) (b : Byte), 1 ≤ i → i ≤ 22 → b ≠ F.getD i 0 →
      ∃ t c r, exec .decode (s.handFrame (F.set i b)) = .next t ∧
        t.dec.result = some (.error (.checksumMismatch c r))) ∧
    ∃ t rd, exec .decode (s.handFrame ((F.set 7 (F.getD 7 0 + 1)).set 8 (F.getD 8 0 - 1))) = .next t ∧
      t.dec.result = some (.ok rd)

/-- DECODE of a good frame: result OK with the rules' reading, its present deliveries in some order, nothing else changed (R57, R71, R30, 41_decoder_check.md). -/
def Obligations.DecodeOfGoodFrame : Prop :=
  ∀ s : State, goodFrame s.dec.frame →
    let r := expectedReading s.gainMode s.pAltDiv s.dec.frame
    ∃ t ds, exec .decode s = .next t ∧ t.dec.result = some (.ok r) ∧
      ds.Perm (presentDeliveries s.sinkPresent r.v r.i r.p r.pf) ∧ t.trace = s.trace ++ ds ∧
      t = { s with
        dec := t.dec
        trace := t.trace
        choices := t.choices }

/-- DECODE of a list that is no 23-byte frame headed 0x55: InvalidFrame only, whatever the checksum; no delivery (R57, R82, R83). -/
def Obligations.DecodeOfMisshapenList : Prop :=
  ∀ s : State, ¬ shapedFrame s.dec.frame →
    ∃ t, exec .decode s = .next t ∧ t.dec.result = some (.error .invalidFrame) ∧
      t = { s with
        dec := t.dec
        trace := s.trace ++ [.diag .invalidFrame] }

/-- DECODE of a shaped frame with a wrong checksum byte: ChecksumMismatch(computed, received) only; no delivery (R57, R83). -/
def Obligations.DecodeOfMismatchedChecksum : Prop :=
  ∀ s : State, shapedFrame s.dec.frame →
    s.dec.frame.getD 22 0 ≠ expectedChecksum s.dec.frame →
    let e := FrameError.checksumMismatch (expectedChecksum s.dec.frame) (s.dec.frame.getD 22 0)
    ∃ t, exec .decode s = .next t ∧ t.dec.result = some (.error e) ∧
      t = { s with
        dec := t.dec
        trace := s.trace ++ [.diag e] }

/-- EXTRACT_I and EXTRACT_P: sext_24 of bytes 1..3 and 10..12, little-endian; nothing else changes (R62, R64). -/
def Obligations.SignedFieldsAreTwosComplement : Prop :=
  decode (.ustep 2) = .ok .extractI ∧ decode (.ustep 4) = .ok .extractP ∧
    ∀ s : State, s.dec.frame.length = 23 →
      (exec .extractI s = .next { s with
          dec := { s.dec with rawI := sext24 (le24 s.dec.frame 1) } } ∧
        -8388608 ≤ sext24 (le24 s.dec.frame 1) ∧ sext24 (le24 s.dec.frame 1) ≤ 8388607) ∧
      (exec .extractP s = .next { s with
          dec := { s.dec with rawP := sext24 (le24 s.dec.frame 10) } } ∧
        -8388608 ≤ sext24 (le24 s.dec.frame 10) ∧ sext24 (le24 s.dec.frame 10) ≤ 8388607)

/-- EXTRACT_V (STEP 3): zext_24 of bytes 4..6, little-endian, 0..16777215; nothing else changes (R63). -/
def Obligations.VoltageFieldIsUnsigned : Prop :=
  decode (.ustep 3) = .ok .extractV ∧
    ∀ s : State, s.dec.frame.length = 23 →
      exec .extractV s = .next { s with dec := { s.dec with rawV := le24 s.dec.frame 4 } } ∧
        le24 s.dec.frame 4 ≤ 16777215

/-- The scale constants are the exact reduced fractions of the table, P_ALT_DIV by default 511610 (R65). -/
def Obligations.ScaleConstantsAreTheTable : Prop :=
  kI .std = 609 / 152989000 ∧ kI .alt = 203 / 152989000 ∧ kV = 13198451 / 209635500000 ∧
    (∀ d, kP d .std = 2679285553 / 1670250000000) ∧
    kP State.reset.pAltDiv .alt = 72340709931 / 12790250000000 ∧
    ∀ d : Nat, kP d .alt = 1218 / 1000 * (1218 / 1000) * (195051 / 100) / (d : Rat)

/-- SCALE_I, SCALE_V, SCALE_P: the exact raw value times its constant, then OUT; the gain mode does not touch the voltage (R66, R67, R68, R65). -/
def Obligations.ScalesAreExactProducts : Prop :=
  decode (.ustep 5) = .ok .scaleI ∧ decode (.ustep 6) = .ok .scaleV ∧
    decode (.ustep 7) = .ok .scaleP ∧
    ∀ s : State,
      (let x := (s.dec.rawI : Rat) * kI s.gainMode
       exec .scaleI s = .next { s with dec := { s.dec with xI := x, outI := out x } }) ∧
      (let x := (s.dec.rawV : Rat) * (13198451 / 209635500000)
       exec .scaleV s = .next { s with dec := { s.dec with xV := x, outV := out x } }) ∧
      (let x := (s.dec.rawP : Rat) * kP s.pAltDiv s.gainMode
       exec .scaleP s = .next { s with dec := { s.dec with xP := x, outP := out x } })

/-- OUT: a zero for 0; else non-zero, of the same sign, within 1e-6 relative; a function of the value alone (R69). -/
def Obligations.OutMeetsTheTolerance : Prop :=
  (∃ negative, out 0 = .zero negative) ∧
    (∀ x : Rat, x ≠ 0 → (out x).toRat ≠ 0 ∧ (0 < (out x).toRat ↔ 0 < x) ∧
      |(out x).toRat - x| ≤ 1 / 1000000 * |x|) ∧
    ∀ x y : Rat, x = y → out x = out y

/-- PF (STEP 8): X_P / (X_I · X_V) when the product is not zero, else 0; from the exact values; nothing else changes (R70, 42_decoder_scale.md). -/
def Obligations.PowerFactorNeverDividesByZero : Prop :=
  decode (.ustep 8) = .ok .pf ∧
    ∀ s : State,
      (s.dec.xI * s.dec.xV ≠ 0 → exec .pf s = .next { s with
        dec := { s.dec with outPF := out (s.dec.xP / (s.dec.xI * s.dec.xV)) } }) ∧
      (s.dec.xI * s.dec.xV = 0 → exec .pf s = .next { s with
        dec := { s.dec with outPF := out 0 } })

/-- Scaling, then PF: X_I · X_V is 0 exactly when raw_I or raw_V is 0, and then PF is OUT(0); under STD else the closed form of the raw values (R70, R66, R67, R68). -/
def Obligations.PowerFactorOfRawFields : Prop :=
  ∀ s : State, ∃ t,
    thenDo (thenDo (thenDo (exec .scaleI s) (exec .scaleV)) (exec .scaleP)) (exec .pf) = .next t ∧
      (t.dec.xI * t.dec.xV = 0 ↔ s.dec.rawI = 0 ∨ s.dec.rawV = 0) ∧
      (s.dec.rawI = 0 ∨ s.dec.rawV = 0 → t.dec.outPF = out 0) ∧
      (s.gainMode = .std → s.dec.rawI ≠ 0 → s.dec.rawV ≠ 0 → t.dec.outPF =
        out ((s.dec.rawP : Rat) / ((s.dec.rawI : Rat) * (s.dec.rawV : Rat)) * (2515445138 / 393)))

/-- EMIT (STEP 9): one delivery to each sink whose SINK_PRESENT bit is set, in some order, and nothing else (R71, R76, R16, R30). -/
def Obligations.EmitDeliversToPresentSinks : Prop :=
  decode (.ustep 9) = .ok .emit ∧
    ∀ s : State, ∃ t ds, exec .emit s = .next t ∧
      ds.Perm (presentDeliveries s.sinkPresent s.dec.outV s.dec.outI s.dec.outP s.dec.outPF) ∧
      t = { s with trace := s.trace ++ ds, choices := t.choices }

/-- The model's choice of a delivery order ranges over exactly the 24 orders of the four quantities (model's choice, entry 6) (R71, R30). -/
def Obligations.EveryDeliveryOrderIsAdmitted : Prop :=
  (∀ k : Fin 24, (deliveryOrder k).Perm quantities) ∧
    ∀ order : List Quantity, order.Perm quantities → ∃ k : Fin 24, deliveryOrder k = order

/-- POLL (CMD 10): one write of 58 AA on the command output; every field of the FSD unchanged (R75). -/
def Obligations.PollWritesTheCommandBytes : Prop :=
  decode (.cmd 0b10) = .ok .poll ∧
    ∀ s : State, exec .poll s = .next { s with trace := s.trace ++ [.tx [0x58, 0xAA]] }

/-- NOP (CMD 00) changes nothing and emits nothing (R79). -/
def Obligations.NopHasNoEffect : Prop :=
  decode (.cmd 0b00) = .ok .nop ∧ ∀ s : State, exec .nop s = .next s

/-- RESET (CMD 11): len 0, SEEKING, the configuration inputs loaded; source and outputs untouched (R93). -/
def Obligations.ResetEmptiesAndLoadsConfiguration : Prop :=
  decode (.cmd 0b11) = .ok .reset ∧
    ∀ s : State, ∃ t, exec .reset s = .next t ∧ t.len = 0 ∧ t.syncState = .seeking ∧
      t.gainMode = s.cfgGain ∧ t.sinkPresent = s.cfgSinks ∧
      t = { s with
        len := t.len
        buf := t.buf
        gainMode := t.gainMode
        sinkPresent := t.sinkPresent }

/-- For every frame |X_I| < 34 in both gain modes, 0 ≤ X_V < 1057, |X_P| < 13457 under STD and < 47446 under ALT by default (R72, R66). -/
def Obligations.ScaledValuesStayInRange : Prop :=
  ∀ F : List Byte, F.length = 23 →
    (∀ g, |(signedField F 1 : Rat) * kI g| < 34) ∧
      0 ≤ (unsignedField F 4 : Rat) * kV ∧ (unsignedField F 4 : Rat) * kV < 1057 ∧
      (∀ d, |(signedField F 10 : Rat) * kP d .std| < 13457) ∧
      |(signedField F 10 : Rat) * kP 511610 .alt| < 47446

/-- Bit 7 of F[3] (F[12]) set: the scaled current (power) output is negative; clear: not negative; voltage is never negative (R73). -/
def Obligations.SignBitDecidesTheSign : Prop :=
  ∀ s : State, s.dec.frame.length = 23 → 0 < s.pAltDiv →
    (∃ t, thenDo (exec .extractI s) (exec .scaleI) = .next t ∧
      (128 ≤ byteAt s.dec.frame 3 → t.dec.xI < 0 ∧ t.dec.outI.toRat < 0) ∧
      (byteAt s.dec.frame 3 < 128 → 0 ≤ t.dec.xI ∧ 0 ≤ t.dec.outI.toRat)) ∧
    (∃ t, thenDo (exec .extractP s) (exec .scaleP) = .next t ∧
      (128 ≤ byteAt s.dec.frame 12 → t.dec.xP < 0 ∧ t.dec.outP.toRat < 0) ∧
      (byteAt s.dec.frame 12 < 128 → 0 ≤ t.dec.xP ∧ 0 ≤ t.dec.outP.toRat)) ∧
    (∃ t, thenDo (exec .extractV s) (exec .scaleV) = .next t ∧ 0 ≤ t.dec.xV ∧ 0 ≤ t.dec.outV.toRat)

/-- DECODE and the ten micro-steps complete in every state and change only the decoder's values, the outputs and the free-value counter (R57, R23, R10). -/
def Obligations.DecoderOperationsLeaveTheSynchronizerAlone : Prop :=
  ∀ i ∈ [Instr.decode, .checkStruct, .checksum, .extractI, .extractV, .extractP, .scaleI, .scaleV,
      .scaleP, .pf, .emit], ∀ s : State, ∃ t, exec i s = .next t ∧
    (∀ a, Memory.read t.buf a = Memory.read s.buf a) ∧
    t = { s with
      dec := t.dec
      trace := t.trace
      choices := t.choices }

/-- SYNC_STATE is SEEKING at len 0, FILLING at 1..22, FRAME_READY at 23; between steps only the first two (R11). -/
def Obligations.SyncStateFollowsLength : Prop :=
  (∀ len : Len,
      (len = 0 → syncStateOf len = .seeking) ∧
      (1 ≤ len.toNat → len.toNat ≤ 22 → syncStateOf len = .filling) ∧
      (len.toNat = 23 → syncStateOf len = .frameReady) ∧
      (len.toNat ≤ 23 → (syncStateOf len).code ≠ 3)) ∧
    SyncState.seeking.code = 0 ∧ SyncState.filling.code = 1 ∧ SyncState.frameReady.code = 2 ∧
    ∀ s : State, s.Inv → s.syncState = .seeking ∨ s.syncState = .filling

/-- Every KEY is decoded by the first row of the operation map that matches it, FAULT first; the map is total (R40). -/
def Obligations.KeyMapFollowsTheRows : Prop :=
  ∀ k : Key,
    (23 ≤ (keyLen k).toNat → decode (.key k) = .ok (.fault (keyLen k) (keyByte k))) ∧
    ((keyLen k).toNat < 23 → ∃ r, keyRows.find? (fun r => k &&& r.2.1 == r.1) = some r ∧
      decode (.key k) = .ok (r.2.2 k))

/-- Decoding an encoded well-formed operation gives it back, and every word the decoder accepts is the encoding of a well-formed operation (30_encoding.md, R39, R40, R41, R43). -/
def Obligations.DecodeEncodeRoundTrip : Prop :=
  (∀ i : Instr, i.wellFormed = true → decode (encode i) = .ok i) ∧
    ∀ (w : Select) (i : Instr), decode w = .ok i → i.wellFormed = true ∧ encode i = w

/-- A word of every encoding space, written out from the spec, decodes to the operation it stands for (R39, R40, R41, R43). -/
def Obligations.WrittenOutWordsDecode : Prop :=
  decode (.key 0b0000001010101) = .ok .rxHeader ∧
    decode (.key 0b0000000000000) = .ok (.rxSkip 0) ∧
    decode (.key 0b0010101010101) = .ok (.rxFill 5 0x55) ∧
    decode (.key 0b1011001010010) = .ok (.rxComplete 0x52) ∧
    decode (.key 0b1011100000000) = .ok (.fault 23 0) ∧
    decode (.cmd 0b01) = .ok .drain ∧ decode (.ustep 0b1001) = .ok .emit

/-- A step on a command (len ≤ 22), a byte or a bench code runs exec of the operation its word decodes to, the word and byte consumed (R5, R39, R41, R43). -/
def Obligations.StepRunsTheDecodedOperation : Prop :=
  ∀ (s : State) (rest : List Line) (i : Instr),
    (∀ c, s.len.toNat ≤ 22 → s.host = .cmd c :: rest → decode (.cmd c) = .ok i →
      step s = exec i { s with host := rest }) ∧
    (∀ byte bytes, s.host = .byteStep :: rest → s.src = byte :: bytes →
      decode (.key (mkKey s.len byte)) = .ok i →
      step s = exec i { s with host := rest, src := bytes }) ∧
    (∀ c, s.host = .ustep c :: rest → decode (.ustep c) = .ok i →
      step s = exec i { s with host := rest }) ∧
    (s.host = .decodeCall :: rest → decode .call = .ok i →
      step s = exec i { s with host := rest })

/-- A step other than DRAIN leaves the buffer, appends one byte at len, or clears it all (R22). -/
def Obligations.BufferChangesByAppendOrClear : Prop :=
  ∀ s t : State, s.Inv → s.host.head? ≠ some (.cmd 0b01) → step s = .next t →
    (t.len = s.len ∧ t.buf = s.buf) ∨
    (∃ byte, t.len.toNat = s.len.toNat + 1 ∧ t.buf = s.buf ++ [(s.len.toNat, byte)]) ∨
    (t.len = 0 ∧ t.buf = [])
end

