-- ==== Sys2Proof/Laws/Decode.lean ====
section
/-! SUPPORT. The fields of a KEY, put together and taken apart. -/

namespace Sys2Proof

@[simp] theorem keyLen_mkKey (len : Len) (byte : Byte) : keyLen (mkKey len byte) = len := by
  apply BitVec.eq_of_getLsbD_eq
  intro i hi
  simp only [keyLen, mkKey, BitVec.getLsbD_extractLsb', BitVec.getLsbD_append, hi]
  simp

@[simp] theorem keyByte_mkKey (len : Len) (byte : Byte) : keyByte (mkKey len byte) = byte := by
  apply BitVec.eq_of_getLsbD_eq
  intro i hi
  simp only [keyByte, mkKey, BitVec.getLsbD_extractLsb', BitVec.getLsbD_append, hi]
  simp [hi]

/-- A KEY is its two fields, put together. -/
theorem mkKey_fields (k : Key) : mkKey (keyLen k) (keyByte k) = k := by
  apply BitVec.eq_of_getLsbD_eq
  intro i hi
  simp only [keyLen, keyByte, mkKey, BitVec.getLsbD_extractLsb', BitVec.getLsbD_append]
  by_cases h : i < 8
  · simp [h]
  · have h5 : i - 8 < 5 := by omega
    have h8 : 8 + (i - 8) = i := by omega
    simp [h, h5, h8]

end Sys2Proof
end

