-- ==== Sys2Proof/Laws/Memory.lean ====
section
/-! SUPPORT. The frame buffer's laws: read after write, the canonical form, and the buffer of live cells. -/

namespace Sys2Proof.Machine

@[simp] theorem read_nil (a : Nat) : Memory.read [] a = none := rfl

@[simp] theorem read_write_same (m : Memory) (a : Nat) (b : Byte) :
    Memory.read (Memory.write m a b) a = some b := by
  induction m with
  | nil => simp [Memory.write, Memory.read]
  | cons c m ih =>
    obtain ⟨k, v⟩ := c
    simp only [Memory.write]
    split
    · simp [Memory.read]
    · split
      · simp [Memory.read]
      · next _ hne => simp [Memory.read, Ne.symm hne, ih]

theorem read_write_of_ne (m : Memory) {a a' : Nat} (b : Byte) (h : a' ≠ a) :
    Memory.read (Memory.write m a b) a' = Memory.read m a' := by
  induction m with
  | nil => simp [Memory.write, Memory.read, Ne.symm h]
  | cons c m ih =>
    obtain ⟨k, v⟩ := c
    simp only [Memory.write]
    split
    · simp [Memory.read, Ne.symm h]
    · split
      · next _ heq => subst heq; simp [Memory.read, Ne.symm h]
      · simp only [Memory.read, ih]

/-- A written buffer's cells are the cell written and cells it had. -/
theorem mem_write {m : Memory} {a : Nat} {b : Byte} {c : Host.Cell}
    (h : c ∈ Memory.write m a b) : c = (a, b) ∨ c ∈ m := by
  induction m with
  | nil => simpa [Memory.write] using h
  | cons d m ih =>
    obtain ⟨k, v⟩ := d
    simp only [Memory.write] at h
    split at h
    · simpa using h
    · split at h
      · rcases List.mem_cons.1 h with h | h
        · exact .inl h
        · exact .inr (List.mem_cons_of_mem _ h)
      · rcases List.mem_cons.1 h with h | h
        · exact .inr (h ▸ List.mem_cons_self)
        · exact (ih h).imp_right (List.mem_cons_of_mem _)

/-- The one buffer write keeps the canonical form. -/
theorem write_wf {m : Memory} {a : Nat} (b : Byte) (h : Memory.wf m) (ha : a < Config.frameLen) :
    Memory.wf (Memory.write m a b) := by
  refine ⟨?_, fun c hc => ?_⟩
  · induction m with
    | nil => simp [Memory.write]
    | cons d m ih =>
      obtain ⟨k, v⟩ := d
      obtain ⟨hp, hb⟩ := h
      rw [List.pairwise_cons] at hp
      simp only [Memory.write]
      split
      · next hlt =>
        refine List.pairwise_cons.2 ⟨fun c hc => ?_, List.pairwise_cons.2 hp⟩
        rcases List.mem_cons.1 hc with rfl | hc
        · exact hlt
        · exact Nat.lt_trans hlt (hp.1 c hc)
      · split
        · next heq =>
          subst heq
          exact List.pairwise_cons.2 hp
        · next hnlt hne =>
          refine List.pairwise_cons.2 ⟨fun c hc => ?_,
            ih ⟨hp.2, fun c hc => hb c (List.mem_cons_of_mem _ hc)⟩⟩
          rcases mem_write hc with rfl | hc
          · show k < a
            omega
          · exact hp.1 c hc
  · rcases mem_write hc with rfl | hc
    · exact ha
    · exact h.2 c hc

/-- Clearing the buffer leaves the canonical form. -/
theorem clearBuffer_wf (s : State) : Memory.wf s.clearBuffer.buf :=
  ⟨List.Pairwise.nil, nofun⟩

theorem reset_wf : Memory.wf State.reset.buf := by decide

/-- A store keeps the canonical form. -/
theorem storeByte_wf {i : Nat} {b : Byte} {s t : State} (h : Memory.wf s.buf)
    (hst : storeByte i b s = .next t) : Memory.wf t.buf := by
  unfold storeByte at hst
  split at hst
  · next hi => cases hst; exact write_wf b h hi
  · cases hst

/-- A write above every cell is an append. -/
theorem write_append {m : Memory} {a : Nat} {b : Byte} (h : ∀ c ∈ m, c.1 < a) :
    Memory.write m a b = m ++ [(a, b)] := by
  induction m with
  | nil => rfl
  | cons c m ih =>
    obtain ⟨k, v⟩ := c
    have hk : k < a := h (k, v) List.mem_cons_self
    have := ih fun c hc => h c (List.mem_cons_of_mem _ hc)
    simp [Memory.write, Nat.not_lt.2 (Nat.le_of_lt hk), Nat.ne_of_gt hk, this]

/-- The buffer's cells lie below `n` when they are exactly those of index below `n`. -/
theorem live_lt {m : Memory} {n : Nat} (h : m.map Prod.fst = List.range n) :
    ∀ c ∈ m, c.1 < n := fun c hc => by
  have : c.1 ∈ m.map Prod.fst := List.mem_map_of_mem hc
  simpa [h] using this

/-- Live cells are in canonical form. -/
theorem live_wf {m : Memory} {n : Nat} (h : m.map Prod.fst = List.range n)
    (hn : n ≤ Config.frameLen) : Memory.wf m := by
  refine ⟨?_, fun c hc => Nat.lt_of_lt_of_le (live_lt h c hc) hn⟩
  have : (m.map Prod.fst).Pairwise (· < ·) := h ▸ List.pairwise_lt_range
  exact List.pairwise_map.1 this

/-- Appending at `n` to live cells below `n` gives live cells below `n + 1`. -/
theorem live_append {m : Memory} {n : Nat} (b : Byte) (h : m.map Prod.fst = List.range n) :
    (Memory.write m n b).map Prod.fst = List.range (n + 1) := by
  rw [write_append (live_lt h), List.map_append, h, List.range_succ]
  rfl

theorem readBytes_of_range' (pre m : Memory) (i : Nat) (hpre : ∀ c ∈ pre, c.1 < i)
    (h : m.map Prod.fst = List.range' i m.length) :
    Memory.readBytes (pre ++ m) i m.length = some (m.map Prod.snd) := by
  induction m generalizing pre i with
  | nil => rfl
  | cons c m ih =>
    obtain ⟨k, v⟩ := c
    simp only [List.map_cons, List.length_cons, List.range'_succ, List.cons.injEq] at h
    obtain ⟨rfl, h⟩ := h
    have hread : Memory.read (pre ++ (k, v) :: m) k = some v := by
      clear ih h
      induction pre with
      | nil => simp [Memory.read]
      | cons d pre ih =>
        obtain ⟨j, w⟩ := d
        have hj : j < k := hpre (j, w) List.mem_cons_self
        have := ih fun c hc => hpre c (List.mem_cons_of_mem _ hc)
        simpa [Memory.read, Nat.ne_of_lt hj] using this
    have hrest := ih (pre ++ [(k, v)]) (k + 1)
      (fun c hc => by
        rcases List.mem_append.1 hc with hc | hc
        · have := hpre c hc
          omega
        · simp only [List.mem_singleton] at hc
          subst hc
          exact Nat.lt_succ_self _) h
    rw [List.append_assoc, List.singleton_append] at hrest
    simp [Memory.readBytes, hread, hrest]

/-- `MemRead(0, n)` of live cells below `n` gives their bytes in order. -/
theorem readBytes_live {m : Memory} {n : Nat} (h : m.map Prod.fst = List.range n) :
    Memory.readBytes m 0 n = some (m.map Prod.snd) := by
  have hl : m.length = n := by simpa using congrArg List.length h
  have := readBytes_of_range' [] m 0 (by simp) (by rw [h, hl, List.range_eq_range'])
  simpa [hl] using this

end Sys2Proof.Machine
end

