-- ==== Sys2Proof/Laws/State.lean ====
section
/-! SUPPORT. The field lemmas of the named state updates: what each sets, and that it leaves every other field. -/

namespace Sys2Proof.Machine

@[simp] theorem emit_len (s : State) (e : Event) : (s.emit e).len = s.len := rfl
@[simp] theorem emit_buf (s : State) (e : Event) : (s.emit e).buf = s.buf := rfl
@[simp] theorem emit_gainMode (s : State) (e : Event) : (s.emit e).gainMode = s.gainMode := rfl
@[simp] theorem emit_sinkPresent (s : State) (e : Event) : (s.emit e).sinkPresent = s.sinkPresent := rfl
@[simp] theorem emit_cfgGain (s : State) (e : Event) : (s.emit e).cfgGain = s.cfgGain := rfl
@[simp] theorem emit_cfgSinks (s : State) (e : Event) : (s.emit e).cfgSinks = s.cfgSinks := rfl
@[simp] theorem emit_pAltDiv (s : State) (e : Event) : (s.emit e).pAltDiv = s.pAltDiv := rfl
@[simp] theorem emit_src (s : State) (e : Event) : (s.emit e).src = s.src := rfl
@[simp] theorem emit_host (s : State) (e : Event) : (s.emit e).host = s.host := rfl
@[simp] theorem emit_trace (s : State) (e : Event) : (s.emit e).trace = s.trace ++ [e] := rfl
@[simp] theorem emit_dec (s : State) (e : Event) : (s.emit e).dec = s.dec := rfl
@[simp] theorem emit_choices (s : State) (e : Event) : (s.emit e).choices = s.choices := rfl

@[simp] theorem clearBuffer_len (s : State) : s.clearBuffer.len = 0 := rfl
@[simp] theorem clearBuffer_buf (s : State) : s.clearBuffer.buf = [] := rfl
@[simp] theorem clearBuffer_gainMode (s : State) : s.clearBuffer.gainMode = s.gainMode := rfl
@[simp] theorem clearBuffer_sinkPresent (s : State) : s.clearBuffer.sinkPresent = s.sinkPresent := rfl
@[simp] theorem clearBuffer_cfgGain (s : State) : s.clearBuffer.cfgGain = s.cfgGain := rfl
@[simp] theorem clearBuffer_cfgSinks (s : State) : s.clearBuffer.cfgSinks = s.cfgSinks := rfl
@[simp] theorem clearBuffer_pAltDiv (s : State) : s.clearBuffer.pAltDiv = s.pAltDiv := rfl
@[simp] theorem clearBuffer_src (s : State) : s.clearBuffer.src = s.src := rfl
@[simp] theorem clearBuffer_host (s : State) : s.clearBuffer.host = s.host := rfl
@[simp] theorem clearBuffer_trace (s : State) : s.clearBuffer.trace = s.trace := rfl
@[simp] theorem clearBuffer_dec (s : State) : s.clearBuffer.dec = s.dec := rfl
@[simp] theorem clearBuffer_choices (s : State) : s.clearBuffer.choices = s.choices := rfl

@[simp] theorem handFrame_len (s : State) (F : List Byte) : (s.handFrame F).len = s.len := rfl
@[simp] theorem handFrame_buf (s : State) (F : List Byte) : (s.handFrame F).buf = s.buf := rfl
@[simp] theorem handFrame_gainMode (s : State) (F : List Byte) : (s.handFrame F).gainMode = s.gainMode := rfl
@[simp] theorem handFrame_sinkPresent (s : State) (F : List Byte) : (s.handFrame F).sinkPresent = s.sinkPresent := rfl
@[simp] theorem handFrame_cfgGain (s : State) (F : List Byte) : (s.handFrame F).cfgGain = s.cfgGain := rfl
@[simp] theorem handFrame_cfgSinks (s : State) (F : List Byte) : (s.handFrame F).cfgSinks = s.cfgSinks := rfl
@[simp] theorem handFrame_pAltDiv (s : State) (F : List Byte) : (s.handFrame F).pAltDiv = s.pAltDiv := rfl
@[simp] theorem handFrame_src (s : State) (F : List Byte) : (s.handFrame F).src = s.src := rfl
@[simp] theorem handFrame_host (s : State) (F : List Byte) : (s.handFrame F).host = s.host := rfl
@[simp] theorem handFrame_trace (s : State) (F : List Byte) : (s.handFrame F).trace = s.trace := rfl
@[simp] theorem handFrame_dec (s : State) (F : List Byte) : (s.handFrame F).dec = { Decoder.idle with frame := F } := rfl
@[simp] theorem handFrame_choices (s : State) (F : List Byte) : (s.handFrame F).choices = s.choices := rfl

@[simp] theorem raiseError_len (e : FrameError) (s : State) : (raiseError e s).len = s.len := rfl
@[simp] theorem raiseError_buf (e : FrameError) (s : State) : (raiseError e s).buf = s.buf := rfl
@[simp] theorem raiseError_gainMode (e : FrameError) (s : State) : (raiseError e s).gainMode = s.gainMode := rfl
@[simp] theorem raiseError_sinkPresent (e : FrameError) (s : State) : (raiseError e s).sinkPresent = s.sinkPresent := rfl
@[simp] theorem raiseError_cfgGain (e : FrameError) (s : State) : (raiseError e s).cfgGain = s.cfgGain := rfl
@[simp] theorem raiseError_cfgSinks (e : FrameError) (s : State) : (raiseError e s).cfgSinks = s.cfgSinks := rfl
@[simp] theorem raiseError_pAltDiv (e : FrameError) (s : State) : (raiseError e s).pAltDiv = s.pAltDiv := rfl
@[simp] theorem raiseError_src (e : FrameError) (s : State) : (raiseError e s).src = s.src := rfl
@[simp] theorem raiseError_host (e : FrameError) (s : State) : (raiseError e s).host = s.host := rfl
@[simp] theorem raiseError_trace (e : FrameError) (s : State) : (raiseError e s).trace = s.trace ++ [.diag e] := rfl
@[simp] theorem raiseError_dec (e : FrameError) (s : State) : (raiseError e s).dec = { s.dec with result := some (.error e) } := rfl
@[simp] theorem raiseError_choices (e : FrameError) (s : State) : (raiseError e s).choices = s.choices := rfl

@[simp] theorem returnOk_len (s : State) : (returnOk s).len = s.len := rfl
@[simp] theorem returnOk_buf (s : State) : (returnOk s).buf = s.buf := rfl
@[simp] theorem returnOk_gainMode (s : State) : (returnOk s).gainMode = s.gainMode := rfl
@[simp] theorem returnOk_sinkPresent (s : State) : (returnOk s).sinkPresent = s.sinkPresent := rfl
@[simp] theorem returnOk_cfgGain (s : State) : (returnOk s).cfgGain = s.cfgGain := rfl
@[simp] theorem returnOk_cfgSinks (s : State) : (returnOk s).cfgSinks = s.cfgSinks := rfl
@[simp] theorem returnOk_pAltDiv (s : State) : (returnOk s).pAltDiv = s.pAltDiv := rfl
@[simp] theorem returnOk_src (s : State) : (returnOk s).src = s.src := rfl
@[simp] theorem returnOk_host (s : State) : (returnOk s).host = s.host := rfl
@[simp] theorem returnOk_trace (s : State) : (returnOk s).trace = s.trace := rfl
@[simp] theorem returnOk_dec (s : State) : (returnOk s).dec = { s.dec with result := some (.ok (readingOf s.dec)) } := rfl
@[simp] theorem returnOk_choices (s : State) : (returnOk s).choices = s.choices := rfl

@[simp] theorem emitResult_len (s : State) : s.emitResult.len = s.len := by
  unfold State.emitResult; split <;> rfl
@[simp] theorem emitResult_buf (s : State) : s.emitResult.buf = s.buf := by
  unfold State.emitResult; split <;> rfl
@[simp] theorem emitResult_gainMode (s : State) : s.emitResult.gainMode = s.gainMode := by
  unfold State.emitResult; split <;> rfl
@[simp] theorem emitResult_sinkPresent (s : State) : s.emitResult.sinkPresent = s.sinkPresent := by
  unfold State.emitResult; split <;> rfl
@[simp] theorem emitResult_cfgGain (s : State) : s.emitResult.cfgGain = s.cfgGain := by
  unfold State.emitResult; split <;> rfl
@[simp] theorem emitResult_cfgSinks (s : State) : s.emitResult.cfgSinks = s.cfgSinks := by
  unfold State.emitResult; split <;> rfl
@[simp] theorem emitResult_pAltDiv (s : State) : s.emitResult.pAltDiv = s.pAltDiv := by
  unfold State.emitResult; split <;> rfl
@[simp] theorem emitResult_src (s : State) : s.emitResult.src = s.src := by
  unfold State.emitResult; split <;> rfl
@[simp] theorem emitResult_host (s : State) : s.emitResult.host = s.host := by
  unfold State.emitResult; split <;> rfl
@[simp] theorem emitResult_dec (s : State) : s.emitResult.dec = s.dec := by
  unfold State.emitResult; split <;> rfl
@[simp] theorem emitResult_choices (s : State) : s.emitResult.choices = s.choices := by
  unfold State.emitResult; split <;> rfl

/-- `Result(r)` appends the record that DECODE returned. -/
theorem emitResult_trace {s : State} {r : Result} (h : s.dec.result = some r) :
    s.emitResult.trace = s.trace ++ [.result r] := by
  simp [State.emitResult, h]

@[simp] theorem endFrame_len (s : State) : (endFrame s).len = 0 := rfl
@[simp] theorem endFrame_buf (s : State) : (endFrame s).buf = [] := rfl
@[simp] theorem endFrame_gainMode (s : State) : (endFrame s).gainMode = s.gainMode := emitResult_gainMode s
@[simp] theorem endFrame_sinkPresent (s : State) : (endFrame s).sinkPresent = s.sinkPresent := emitResult_sinkPresent s
@[simp] theorem endFrame_cfgGain (s : State) : (endFrame s).cfgGain = s.cfgGain := emitResult_cfgGain s
@[simp] theorem endFrame_cfgSinks (s : State) : (endFrame s).cfgSinks = s.cfgSinks := emitResult_cfgSinks s
@[simp] theorem endFrame_pAltDiv (s : State) : (endFrame s).pAltDiv = s.pAltDiv := emitResult_pAltDiv s
@[simp] theorem endFrame_src (s : State) : (endFrame s).src = s.src := emitResult_src s
@[simp] theorem endFrame_host (s : State) : (endFrame s).host = s.host := emitResult_host s
@[simp] theorem endFrame_trace (s : State) : (endFrame s).trace = s.emitResult.trace := rfl
@[simp] theorem endFrame_dec (s : State) : (endFrame s).dec = Decoder.idle := rfl
@[simp] theorem endFrame_choices (s : State) : (endFrame s).choices = s.choices := emitResult_choices s

/-- The end of a frame whose decode returned `r`, as one record. -/
theorem endFrame_of_result {s : State} {r : Result} (h : s.dec.result = some r) :
    endFrame s = { s with
      len := 0
      buf := []
      trace := s.trace ++ [.result r]
      dec := Decoder.idle } := by
  simp [endFrame, State.emitResult, h, State.clearBuffer, State.emit]

end Sys2Proof.Machine
end

