-- ==== Sys2Proof/Laws/Ops.lean ====
section
/-! SUPPORT. What each shared operation can do, said once. -/

namespace Sys2Proof.Machine

@[simp] theorem thenDo_next (s : State) (f : State → Outcome) : thenDo (.next s) f = f s := rfl

@[simp] theorem thenDo_fault (r : Fault) (f : State → Outcome) : thenDo (.fault r) f = .fault r := rfl

@[simp] theorem thenDo_refused (r : Refusal) (f : State → Outcome) :
    thenDo (.refused r) f = .refused r := rfl

/-- A sequence answers a next state exactly when both its parts do. -/
theorem thenDo_eq_next {o : Outcome} {f : State → Outcome} {u : State} :
    thenDo o f = .next u ↔ ∃ t, o = .next t ∧ f t = .next u := by
  cases o <;> simp

/-- Two sequences are the same when their second parts agree wherever the first answers. -/
theorem thenDo_congr {o : Outcome} {f g : State → Outcome}
    (h : ∀ t, o = .next t → f t = g t) : thenDo o f = thenDo o g := by
  cases o with
  | next t => exact h t rfl
  | fault r => rfl
  | refused r => rfl

theorem thenDo_assoc (o : Outcome) (f g : State → Outcome) :
    thenDo (thenDo o f) g = thenDo o fun t => thenDo (f t) g := by
  cases o <;> rfl

/-- A store at an index that exists. -/
theorem storeByte_next {i : Nat} (b : Byte) (s : State) (h : i < Config.frameLen) :
    storeByte i b s = .next { s with buf := Memory.write s.buf i b } := if_pos h

/-- A store at an index that does not exist faults (R21). -/
theorem storeByte_fault {i : Nat} (b : Byte) (s : State) (h : ¬ i < Config.frameLen) :
    storeByte i b s = .fault .bufferIndex := if_neg h

/-- An append at an index that exists. -/
theorem appendByte_next {i : Nat} (b : Byte) (len : Len) (s : State) (h : i < Config.frameLen) :
    appendByte i b len s = .next { s with buf := Memory.write s.buf i b, len := len } := by
  simp [appendByte, storeByte_next b s h]

/-- Everything an append can do. -/
theorem appendByte_cases {i : Nat} {b : Byte} {len : Len} {s t : State}
    (h : appendByte i b len s = .next t) :
    i < Config.frameLen ∧ t = { s with buf := Memory.write s.buf i b, len := len } := by
  by_cases hi : i < Config.frameLen
  · rw [appendByte_next b len s hi] at h
    cases h
    exact ⟨hi, rfl⟩
  · simp [appendByte, storeByte_fault b s hi] at h

/-- A micro-step runs while the decode has not ended. -/
theorem unlessEnded_running {s : State} {f : State → Outcome} (h : s.dec.result = none) :
    unlessEnded (.next s) f = f s := by
  simp [unlessEnded, h]

/-- Nothing runs once the decode has ended (R83 point 1). -/
theorem unlessEnded_ended {s : State} {r : Result} {f : State → Outcome}
    (h : s.dec.result = some r) : unlessEnded (.next s) f = .next s := by
  simp [unlessEnded, h]

/-- No step faults at its start where the length is a legal one (R12). -/
theorem stepFaults_of_legal {s : State} (sel : Select) (h : s.len.toNat ≤ 22) :
    stepFaults sel s = false := by
  simp [stepFaults, show ¬ 23 ≤ s.len.toNat by omega]

/-- A command's step faults at its start exactly when the length is no legal one (R12, D20). -/
@[simp] theorem stepFaults_cmd (c : Cmd) (s : State) :
    stepFaults (.cmd c) s = decide (23 ≤ s.len.toNat) := rfl

@[simp] theorem stepFaults_key (k : Key) (s : State) :
    stepFaults (.key k) s = decide (23 ≤ s.len.toNat) := rfl

@[simp] theorem stepFaults_ustep (c : StepCode) (s : State) : stepFaults (.ustep c) s = false := rfl

@[simp] theorem stepFaults_call (s : State) : stepFaults .call s = false := rfl

@[simp] theorem resultsOf_append (t u : List Event) :
    resultsOf (t ++ u) = resultsOf t ++ resultsOf u := List.filterMap_append

@[simp] theorem diagsOf_append (t u : List Event) :
    diagsOf (t ++ u) = diagsOf t ++ diagsOf u := List.filterMap_append

@[simp] theorem deliveriesOf_append (t u : List Event) :
    deliveriesOf (t ++ u) = deliveriesOf t ++ deliveriesOf u := List.filterMap_append

@[simp] theorem txOf_append (t u : List Event) : txOf (t ++ u) = txOf t ++ txOf u :=
  List.flatMap_append

/-- Deliveries are no result events. -/
@[simp] theorem resultsOf_deliveriesIn (order : List Quantity) (sinks : BitVec 4) (d : Decoder) :
    resultsOf (deliveriesIn order sinks d) = [] := by
  simp [resultsOf, deliveriesIn, List.filterMap_map]

/-- Deliveries are no diagnostics. -/
@[simp] theorem diagsOf_deliveriesIn (order : List Quantity) (sinks : BitVec 4) (d : Decoder) :
    diagsOf (deliveriesIn order sinks d) = [] := by
  simp [diagsOf, deliveriesIn, List.filterMap_map]

/-- The clamped error stays within the tolerance. -/
theorem clampError_le (e : Rat) : clampError e ≤ Config.relTol := by
  unfold clampError Config.relTol
  split_ifs <;> linarith

/-- The clamped error stays within the tolerance. -/
theorem neg_le_clampError (e : Rat) : -Config.relTol ≤ clampError e := by
  unfold clampError Config.relTol
  split_ifs <;> linarith

/-- A clamp changes no error that is within the tolerance: every `OUT` of R69 is reached. -/
theorem clampError_of_within {e : Rat} (h₁ : -Config.relTol ≤ e) (h₂ : e ≤ Config.relTol) :
    clampError e = e := by
  unfold clampError
  rw [if_neg (not_lt.2 h₁), if_neg (not_lt.2 h₂)]

end Sys2Proof.Machine
end

