-- ==== Sys2Proof/Laws/Operands.lean ====
section
/-! SUPPORT. What the decoder's operands are in the plain terms of Safety.lean: fields, checksum, constants, OUT. -/

namespace Sys2Proof.Machine

/-- `F[i]` where the list has an index `i`. -/
theorem frameByte_of_lt {F : List Byte} {i : Nat} (h : i < F.length) :
    frameByte F i = F.getD i 0 := by
  simp [frameByte, List.getD, h]

/-- The structural check is the shape of a frame. -/
theorem structureOk_eq (F : List Byte) : structureOk F = decide (shapedFrame F) := by
  unfold structureOk shapedFrame frameByte
  cases F with
  | nil => simp
  | cons a l => rw [Bool.decide_and]; rfl

/-- The concatenation of R24 is its shift-and-or sum. -/
theorem field24_toNat {F : List Byte} {o : Nat} (h : o + 2 < F.length) :
    (field24 F o).toNat = le24 F o := by
  have h₁ := (F.getD (o + 1) 0).isLt
  have h₀ := (F.getD o 0).isLt
  simp only [field24, BitVec.toNat_append, frameByte_of_lt h,
    frameByte_of_lt (show o + 1 < F.length by omega),
    frameByte_of_lt (show o < F.length by omega), le24, byteAt]
  rw [← Nat.shiftLeft_add_eq_or_of_lt h₁, ← Nat.shiftLeft_add_eq_or_of_lt h₀]
  simp only [Nat.shiftLeft_eq]
  omega

theorem le24_lt (F : List Byte) (o : Nat) : le24 F o < 16777216 := by
  have h₀ := (F.getD o 0).isLt
  have h₁ := (F.getD (o + 1) 0).isLt
  have h₂ := (F.getD (o + 2) 0).isLt
  simp only [le24, byteAt]
  omega

/-- Bit 23 of a field is bit 7 of its highest byte. -/
theorem le24_top (F : List Byte) (o : Nat) : 8388608 ≤ le24 F o ↔ 128 ≤ byteAt F (o + 2) := by
  have h₀ := (F.getD o 0).isLt
  have h₁ := (F.getD (o + 1) 0).isLt
  simp only [le24, byteAt]
  omega

theorem getLsbD_seven (b : Byte) : b.getLsbD 7 = decide (128 ≤ b.toNat) := by
  revert b
  decide

/-- The subtraction of R35 is `sext_24` of R7. -/
theorem signedField_eq {F : List Byte} {o : Nat} (h : o + 2 < F.length) :
    signedField F o = sext24 (le24 F o) := by
  simp only [signedField, field24_toNat h, getLsbD_seven, frameByte_of_lt h, sext24, le24_top]
  simp [byteAt]

theorem unsignedField_eq {F : List Byte} {o : Nat} (h : o + 2 < F.length) :
    unsignedField F o = le24 F o := field24_toNat h

theorem sext24_range {u : Nat} (h : u < 16777216) :
    -8388608 ≤ sext24 u ∧ sext24 u ≤ 8388607 := by
  unfold sext24
  split <;> omega

/-- An 8-bit accumulation is its seed plus the 8-bit sum of what it adds. -/
theorem foldl_add_eq (f : Nat → Byte) (l : List Nat) (a : Byte) :
    l.foldl (fun acc i => acc + f i) a = a + (l.map f).sum := by
  induction l generalizing a with
  | nil => simp
  | cons x l ih => simp [ih, BitVec.add_assoc]

theorem byteSum_toNat (l : List Byte) : l.sum.toNat = (l.map BitVec.toNat).sum % 256 := by
  induction l with
  | nil => rfl
  | cons x l ih => simp [BitVec.toNat_add, ih]

theorem map_frameByte_range {F : List Byte} {n : Nat} (h : n ≤ F.length) :
    (List.range n).map (frameByte F) = F.take n := by
  apply List.ext_getElem
  · simp [h]
  · intro i _ h₂
    simp only [List.length_take, lt_inf_iff] at h₂
    simp [frameByte, h₂.2]

/-- The checksum as an 8-bit expression over the frame's bytes. -/
theorem checksumCalc_eq_sum {F : List Byte} (h : 22 ≤ F.length) :
    checksumCalc F = ~~~ (88 + (F.take 22).sum) := by
  rw [checksumCalc, checksumSum, foldl_add_eq, map_frameByte_range h]

/-- Replacing one byte changes an 8-bit sum by the difference of the two bytes. -/
theorem byteSum_set {l : List Byte} {i : Nat} (b : Byte) (h : i < l.length) :
    (l.set i b).sum = l.sum - l.getD i 0 + b := by
  induction l generalizing i with
  | nil => simp at h
  | cons x l ih =>
    cases i with
    | zero => simp; bv_omega
    | succ i =>
      simp only [List.length_cons, Nat.add_lt_add_iff_right] at h
      simp [ih h]
      bv_omega

theorem kI_pos (g : GainMode) : 0 < kI g := by cases g <;> norm_num [kI]

theorem kV_pos : 0 < kV := by norm_num [kV]

theorem kP_pos {d : Nat} (h : 0 < d) (g : GainMode) : 0 < kP d g := by
  have : (0 : Rat) < d := by exact_mod_cast h
  cases g
  · norm_num [kP]
  · simp only [kP]
    positivity

/-- Every output is its exact value times a factor within `REL_TOL` of one. -/
theorem out_toRat (x : Rat) :
    ∃ e, -Config.relTol ≤ e ∧ e ≤ Config.relTol ∧ (out x).toRat = x * (1 + e) := by
  refine ⟨clampError (Config.outError x), neg_le_clampError _, clampError_le _, ?_⟩
  by_cases h : x = 0
  · rw [h, out, if_pos rfl, zero_mul]
    rfl
  · rw [out, if_neg h]
    rfl

/-- With no deliveries left out, EMIT's orders deliver the same four values. -/
theorem deliveriesIn_perm {o o' : List Quantity} (h : o.Perm o') (sinks : BitVec 4) (d : Decoder) :
    (deliveriesIn o sinks d).Perm (deliveriesIn o' sinks d) :=
  (h.filter _).map _

end Sys2Proof.Machine
end

