-- ==== Sys2Proof/Laws/PerInstr.lean ====
section
/-! SUPPORT. The family TableRow: every well-formed operation's encoding fits its row of spec/opcode_table.json. -/

namespace Sys2Proof.Laws.TableRow

/-- The bits of a selector word, as the table's match and mask see them. -/
def bits : Select → Nat
  | .key k => k.toNat
  | .cmd c => c.toNat
  | .ustep c => c.toNat
  | .call => 0

/-- The (match, mask) pairs of an operation's row. FAULT and DECODE have none: FAULT's row is a length
condition, and DECODE has no code. -/
def patterns : Instr → List (Nat × Nat)
  | .fault _ _ => [(0x0000, 0x0000)]
  | .rxHeader => [(0x0055, 0x1FFF)]
  | .rxSkip _ => [(0x0000, 0x1F00)]
  | .rxComplete _ => [(0x1600, 0x1F00)]
  | .rxFill _ _ => [(0x0100, 0x1F00), (0x0200, 0x1E00), (0x0400, 0x1C00), (0x0800, 0x1800),
      (0x1000, 0x1C00), (0x1400, 0x1E00)]
  | .nop => [(0b00, 0b11)]
  | .drain => [(0b01, 0b11)]
  | .poll => [(0b10, 0b11)]
  | .reset => [(0b11, 0b11)]
  | .decode => [(0x0, 0x0)]
  | .checkStruct => [(0x0, 0xF)]
  | .checksum => [(0x1, 0xF)]
  | .extractI => [(0x2, 0xF)]
  | .extractV => [(0x3, 0xF)]
  | .extractP => [(0x4, 0xF)]
  | .scaleI => [(0x5, 0xF)]
  | .scaleV => [(0x6, 0xF)]
  | .scaleP => [(0x7, 0xF)]
  | .pf => [(0x8, 0xF)]
  | .emit => [(0x9, 0xF)]

/-- The encoding of a well-formed operation meets a match and mask pair of its row (R40, R41, R43). -/
def Statement (i : Instr) : Prop :=
  i.wellFormed = true → ∃ p ∈ patterns i, bits (encode i) &&& p.2 = p.1

/-- A KEY's value is its length field above its byte. -/
theorem mkKey_toNat (len : Len) (byte : Byte) : (mkKey len byte).toNat = len.toNat * 256 + byte.toNat := by
  have hb : byte.toNat < 2 ^ 8 := byte.isLt
  simp only [mkKey, BitVec.toNat_append]
  rw [← Nat.shiftLeft_add_eq_or_of_lt hb, Nat.shiftLeft_eq]

/-- A mask with no bit in the byte field sees the length field alone. -/
theorem and_mask (len : Len) (byte : Byte) (m : Nat) :
    (mkKey len byte).toNat &&& (m * 256) = (len.toNat &&& m) * 256 := by
  have hb : byte.toNat < 2 ^ 8 := byte.isLt
  rw [mkKey_toNat]
  apply Nat.eq_of_testBit_eq
  intro i
  rw [Nat.testBit_and, show (256 : Nat) = 2 ^ 8 from rfl, Nat.mul_comm len.toNat, Nat.mul_comm m,
    Nat.mul_comm (len.toNat &&& m), Nat.testBit_two_pow_mul_add _ hb, Nat.testBit_two_pow_mul,
    Nat.testBit_two_pow_mul, Nat.testBit_and]
  by_cases h : i < 8 <;> simp [h, Nat.not_le.2, Nat.le_of_not_lt]

theorem fault (len : Len) (byte : Byte) : Statement (.fault len byte) := fun _ =>
  ⟨_, List.mem_singleton.2 rfl, Nat.and_zero _⟩
theorem rxHeader : Statement .rxHeader := fun _ => ⟨_, List.mem_singleton.2 rfl, rfl⟩
theorem rxSkip (byte : Byte) : Statement (.rxSkip byte) := fun _ =>
  ⟨_, List.mem_singleton.2 rfl, and_mask 0 byte 0x1F⟩
theorem rxComplete (byte : Byte) : Statement (.rxComplete byte) := fun _ =>
  ⟨_, List.mem_singleton.2 rfl, and_mask 22 byte 0x1F⟩
theorem rxFill (len : Len) (byte : Byte) : Statement (.rxFill len byte) := by
  intro h
  have key : ∀ l : Len, 1 ≤ l.toNat ∧ l.toNat ≤ 21 → ∃ p ∈ patterns (.rxFill 0 0),
      p.2 = p.2 / 256 * 256 ∧ (l.toNat &&& p.2 / 256) * 256 = p.1 := by decide +kernel
  simp only [Instr.wellFormed, Bool.and_eq_true, decide_eq_true_eq] at h
  obtain ⟨p, hp, h1, h2⟩ := key len h
  refine ⟨p, hp, ?_⟩
  rw [h1, ← h2]
  exact and_mask len byte (p.2 / 256)
theorem nop : Statement .nop := fun _ => ⟨_, List.mem_singleton.2 rfl, rfl⟩
theorem drain : Statement .drain := fun _ => ⟨_, List.mem_singleton.2 rfl, rfl⟩
theorem poll : Statement .poll := fun _ => ⟨_, List.mem_singleton.2 rfl, rfl⟩
theorem reset : Statement .reset := fun _ => ⟨_, List.mem_singleton.2 rfl, rfl⟩
theorem decode : Statement .decode := fun _ => ⟨_, List.mem_singleton.2 rfl, rfl⟩
theorem checkStruct : Statement .checkStruct := fun _ => ⟨_, List.mem_singleton.2 rfl, rfl⟩
theorem checksum : Statement .checksum := fun _ => ⟨_, List.mem_singleton.2 rfl, rfl⟩
theorem extractI : Statement .extractI := fun _ => ⟨_, List.mem_singleton.2 rfl, rfl⟩
theorem extractV : Statement .extractV := fun _ => ⟨_, List.mem_singleton.2 rfl, rfl⟩
theorem extractP : Statement .extractP := fun _ => ⟨_, List.mem_singleton.2 rfl, rfl⟩
theorem scaleI : Statement .scaleI := fun _ => ⟨_, List.mem_singleton.2 rfl, rfl⟩
theorem scaleV : Statement .scaleV := fun _ => ⟨_, List.mem_singleton.2 rfl, rfl⟩
theorem scaleP : Statement .scaleP := fun _ => ⟨_, List.mem_singleton.2 rfl, rfl⟩
theorem pf : Statement .pf := fun _ => ⟨_, List.mem_singleton.2 rfl, rfl⟩
theorem emit : Statement .emit := fun _ => ⟨_, List.mem_singleton.2 rfl, rfl⟩

end Sys2Proof.Laws.TableRow
end

