-- ==== Sys2Proof/Tests/Slice0.lean ====
section
/-! SUPPORT. Tests, with expected values from spec/95_test_vectors.md and the encodings of spec/30_encoding.md, and a
witness for every statement that has hypotheses. -/

namespace Sys2Proof.Tests

open Sys2Proof Sys2Proof.Machine

/-! ### Frames of spec/95_test_vectors.md section 2 -/

def frameA : List Byte := [0x55, 0x00, 0x00, 0x00, 0x00, 0x00, 0x00, 0x00, 0x00, 0x00, 0x00, 0x00, 0x00, 0x00, 0x00, 0x00, 0x00, 0x00, 0x00, 0x00, 0x00, 0x00, 0x52]
def frameB : List Byte := [0x55, 0x54, 0xD5, 0x03, 0x40, 0xBD, 0x37, 0x00, 0x00, 0x00, 0x11, 0x30, 0x02, 0x00, 0x00, 0x00, 0x00, 0x00, 0x00, 0x00, 0x00, 0x00, 0xAF]
def frameC : List Byte := [0x55, 0xFF, 0xFF, 0xFF, 0xFF, 0xFF, 0xFF, 0x00, 0x00, 0x00, 0x00, 0x00, 0x80, 0x00, 0x00, 0x00, 0x00, 0x00, 0x00, 0x00, 0x00, 0x00, 0xD8]
def frameFFr : List Byte := [0x55, 0xFF, 0xFF, 0xFF, 0xFF, 0xFF, 0xFF, 0xFF, 0xFF, 0xFF, 0xFF, 0xFF, 0xFF, 0xFF, 0xFF, 0xFF, 0xFF, 0xFF, 0xFF, 0xFF, 0xFF, 0xFF, 0x67]
def frameH : List Byte := [0x55, 0x00, 0x00, 0x00, 0x00, 0x00, 0x00, 0x00, 0x00, 0x00, 0x00, 0x00, 0x00, 0xFD, 0x00, 0x00, 0x00, 0x00, 0x00, 0x00, 0x00, 0x00, 0x55]

/-! ### Helpers -/

/-- Whether an outcome is a next state with a property. -/
def after (o : Outcome) (p : State → Bool) : Bool :=
  match o with
  | .next t => p t
  | .fault _ => false
  | .refused _ => false

/-- Whether an outcome is the given fault. -/
def faultsWith (o : Outcome) (r : Fault) : Bool :=
  match o with
  | .next _ => false
  | .fault q => decide (q = r)
  | .refused _ => false

/-- Whether an outcome is the given refusal. -/
def refusesWith (o : Outcome) (r : Refusal) : Bool :=
  match o with
  | .next _ => false
  | .fault _ => false
  | .refused q => decide (q = r)

theorem next_of_after {o : Outcome} {p : State → Bool} (h : after o p = true) :
    ∃ t, o = .next t ∧ p t = true := by
  cases o with
  | next t => exact ⟨t, rfl, h⟩
  | fault r => cases h
  | refused r => cases h

/-- Reset, with these bytes accepted so far. -/
def holding (bytes : List Byte) : State :=
  { State.reset with
    len := BitVec.ofNat 5 bytes.length
    buf := (List.range bytes.length).zip bytes }

/-- Reset, with these bytes waiting in the source. -/
def fed (bytes : List Byte) : State := { State.reset with src := bytes }

/-- Reset, with a frame handed to the decoder. -/
def given (F : List Byte) : State := State.reset.handFrame F

/-- What a decode ended with, without the values whose format is open: status, checksums, raw fields. -/
def ended (s : State) : Option (BitVec 2 × Byte × Byte × Int × Nat × Int) :=
  s.dec.result.map fun r =>
    match r with
    | .ok d => (0, d.ckCalc, d.ckRx, d.rawI, d.rawV, d.rawP)
    | .error (.checksumMismatch c x) => (2, c, x, 0, 0, 0)
    | .error .invalidFrame => (1, 0, 0, 0, 0, 0)

/-! ### WellFormed refuses each ill-formed term (R40) -/

theorem test_fault_len_22_ill_formed : (Instr.fault 22 0).wellFormed = false := by decide
theorem test_rxSkip_header_ill_formed : (Instr.rxSkip 0x55).wellFormed = false := by decide
theorem test_rxFill_len_0_ill_formed : (Instr.rxFill 0 0).wellFormed = false := by decide
theorem test_rxFill_len_22_ill_formed : (Instr.rxFill 22 0).wellFormed = false := by decide
theorem test_bounds_well_formed :
    (Instr.fault 23 0).wellFormed ∧ (Instr.rxSkip 0x54).wellFormed ∧
      (Instr.rxFill 1 0x55).wellFormed ∧ (Instr.rxFill 21 0).wellFormed := by decide

/-! ### Decoding words written out from R39, R41 and R43: length bits 12..8, then the byte -/

theorem test_decode_fault : decode (.key 0b1011100000000) = .ok (.fault 23 0) ∧
    decode (.key 0b1111101010101) = .ok (.fault 31 0x55) := by decide
theorem test_decode_rxHeader : decode (.key 0b0000001010101) = .ok .rxHeader := by decide
theorem test_decode_rxSkip : decode (.key 0b0000010101010) = .ok (.rxSkip 0xAA) := by decide
theorem test_decode_rxComplete : decode (.key 0b1011001010101) = .ok (.rxComplete 0x55) := by decide
/-- One word in each of RX_FILL's six blocks (R40). -/
theorem test_decode_rxFill : decode (.key 0b0000101010101) = .ok (.rxFill 1 0x55) ∧
    decode (.key 0b0001100000001) = .ok (.rxFill 3 1) ∧
    decode (.key 0b0010011111111) = .ok (.rxFill 4 0xFF) ∧
    decode (.key 0b0111100000000) = .ok (.rxFill 15 0) ∧
    decode (.key 0b1001110000000) = .ok (.rxFill 19 0x80) ∧
    decode (.key 0b1010100000010) = .ok (.rxFill 21 2) := by decide
theorem test_decode_nop : decode (.cmd 0b00) = .ok .nop := by decide
theorem test_decode_drain : decode (.cmd 0b01) = .ok .drain := by decide
theorem test_decode_poll : decode (.cmd 0b10) = .ok .poll := by decide
theorem test_decode_reset : decode (.cmd 0b11) = .ok .reset := by decide
theorem test_decode_decode : decode .call = .ok .decode := by decide
theorem test_decode_checkStruct : decode (.ustep 0b0000) = .ok .checkStruct := by decide
theorem test_decode_checksum : decode (.ustep 0b0001) = .ok .checksum := by decide
theorem test_decode_extractI : decode (.ustep 0b0010) = .ok .extractI := by decide
theorem test_decode_extractV : decode (.ustep 0b0011) = .ok .extractV := by decide
theorem test_decode_extractP : decode (.ustep 0b0100) = .ok .extractP := by decide
theorem test_decode_scaleI : decode (.ustep 0b0101) = .ok .scaleI := by decide
theorem test_decode_scaleV : decode (.ustep 0b0110) = .ok .scaleV := by decide
theorem test_decode_scaleP : decode (.ustep 0b0111) = .ok .scaleP := by decide
theorem test_decode_pf : decode (.ustep 0b1000) = .ok .pf := by decide
theorem test_decode_emit : decode (.ustep 0b1001) = .ok .emit := by decide
theorem test_decode_reserved : decode (.ustep 0b1010) = .error (.reservedStep 10) ∧
    decode (.ustep 0b1111) = .error (.reservedStep 15) := by decide

theorem test_table_words : decodeTableWord 16 0x0055 = some .rxHeader ∧
    decodeTableWord 16 0x1600 = some (.rxComplete 0) ∧ decodeTableWord 16 0x2000 = none ∧
    decodeTableWord 8 2 = some .poll ∧ decodeTableWord 8 9 = some .emit ∧
    decodeTableWord 0 0 = some .decode := by decide

/-- The word placed where the next step fetches runs: RX_HEADER, RX_FILL, POLL, EXTRACT_V, DECODE. -/
theorem test_withFetchWord :
    after (step (State.reset.withFetchWord 16 0x0055)) (fun t => decide (t.len = 1 ∧ t.src = [])) ∧
    after (step (State.reset.withFetchWord 16 0x0507)) (fun t => Memory.read t.buf 5 == some 7) ∧
    after (step (State.reset.withFetchWord 8 2)) (fun t => decide (t.trace = [.tx [0x58, 0xAA]])) ∧
    after (step (State.reset.withFetchWord 8 4)) (fun t => decide (t.len = 0)) ∧
    after (step (State.reset.withFetchWord 0 0)) (fun t => decide (t.trace = [.diag .invalidFrame])) := by
  decide +kernel

/-- RX_COMPLETE placed after reset: the frame 55, 21 times 00, 52 is frame A (vector S4). -/
theorem test_withFetchWord_rxComplete :
    after (step (State.reset.withFetchWord 16 0x1652)) (fun t =>
      decide (t.len = 0 ∧ t.buf = [] ∧ t.choices = 1)) := by decide +kernel

/-! ### The buffer (R8, R14, R21) -/

theorem test_write_keeps_order :
    Memory.write [(0, 1), (2, 3)] 1 7 = [(0, 1), (1, 7), (2, 3)] := by decide
theorem test_write_replaces : Memory.write [(0, 1), (2, 3)] 2 9 = [(0, 1), (2, 9)] := by decide
theorem test_no_cell_23 : faultsWith (storeByte 23 0 State.reset) .bufferIndex := by decide
theorem test_stale_read : faultsWith (exec (.rxComplete 0) { State.reset with len := 22 }) .staleRead := by
  decide +kernel

/-! ### Synchronizer: vectors S1 to S12 -/

theorem test_fault : faultsWith (exec (.fault 23 0) State.reset) .unreachableLen := by decide
/-- R12, R5: a command that finds such a length at its start faults; a micro-step does not. -/
theorem test_command_at_len_24 :
    faultsWith (step { State.reset with len := 24, host := [.cmd 0b00] }) .unreachableLen ∧
    faultsWith (step { State.reset with len := 23, host := [.cmd 0b11] }) .unreachableLen ∧
    after (step { State.reset with len := 23, host := [.ustep 2] }) (fun t => decide (t.len = 23)) := by
  decide +kernel
/-- S1 -/
theorem test_rxSkip : after (step { fed [0x00] with host := [.byteStep] }) (fun t =>
    decide (t = State.reset)) := by decide
/-- S2 -/
theorem test_rxHeader : after (step { fed [0x55] with host := [.byteStep] }) (fun t =>
    decide (t = holding [0x55])) := by decide
/-- S3 -/
theorem test_rxFill_55 : after (step { holding [0x55] with src := [0x55], host := [.byteStep] })
    (fun t => decide (t = holding [0x55, 0x55])) := by decide
/-- S10: the checksum byte 0x55 completes frame H; it starts no frame. -/
theorem test_rxComplete_55 :
    after (step { holding (frameH.take 22) with src := [0x55], host := [.byteStep] }) (fun t =>
      decide (t.len = 0 ∧ t.choices = 1)) := by decide +kernel
/-- K2 through the synchronizer: diagnostic, then the error result, then an empty buffer. -/
theorem test_rxComplete_mismatch :
    after (exec (.rxComplete 0x53) (holding (frameA.take 22))) (fun t =>
      decide (t = { State.reset with
        trace := [.diag (.checksumMismatch 0x52 0x53),
          .result (.error (.checksumMismatch 0x52 0x53))] })) := by decide +kernel
/-- S7: a stray header takes B[0..21], and the byte AF is skipped. -/
theorem test_drain_stray_header :
    after (exec .drain (fed (0x55 :: frameB))) (fun t =>
      decide (t = { State.reset with
        trace := [.diag (.checksumMismatch 0x5A 0x00),
          .result (.error (.checksumMismatch 0x5A 0x00))] })) := by decide +kernel
/-- S9 and S8: junk, then frame B twice: two frames OK, nothing left over. -/
theorem test_drain_back_to_back :
    after (exec .drain (fed ([0x00, 0xFF, 0x12] ++ frameB ++ frameB))) (fun t =>
      decide (t.len = 0 ∧ t.src = [] ∧ t.choices = 2)) := by decide +kernel

/-! ### Checksum and structure: vectors K1 to K12 -/

/-- K3 and M2's record -/
theorem test_decode_frameB : after (exec .decode (given frameB)) (fun t =>
    decide (ended t = some (0, 0xAF, 0xAF, 251220, 3652928, 143377))) := by decide +kernel
/-- K6: 22 bytes -/
theorem test_decode_short : after (exec .decode (given (frameB.take 22))) (fun t =>
    decide (ended t = some (1, 0, 0, 0, 0, 0) ∧ t.trace = [.diag .invalidFrame])) := by decide +kernel
/-- K12 and K11: 24 bytes, no bytes -/
theorem test_checkStruct_length :
    after (exec .checkStruct (given (frameA ++ [0]))) (fun t => decide (t.trace = [.diag .invalidFrame])) ∧
    after (exec .checkStruct (given [])) (fun t => decide (t.trace = [.diag .invalidFrame])) := by
  decide +kernel
/-- K4 -/
theorem test_checkStruct_header : after (exec .checkStruct (given (frameB.set 0 0x54))) (fun t =>
    decide (t.dec.result = some (.error .invalidFrame))) := by decide +kernel
/-- K1, K9, K10 -/
theorem test_checksum_values : checksumCalc frameA = 0x52 ∧ checksumCalc frameFFr = 0x67 ∧
    checksumCalc frameH = 0x55 ∧ checksumCalc frameC = 0xD8 := by decide +kernel
/-- K5 -/
theorem test_checksum_mismatch : after (exec .checksum (given (frameB.set 5 0xBC))) (fun t =>
    decide (ended t = some (2, 0xB0, 0xAF, 0, 0, 0))) := by decide +kernel

/-! ### Field extraction: vectors X3 to X10 -/

/-- X10 and X4 -/
theorem test_extractI :
    after (exec .extractI (given [0x55, 0xFF, 0x00, 0x80])) (fun t => decide (t.dec.rawI = -8388353)) ∧
    after (exec .extractI (given frameB)) (fun t => decide (t.dec.rawI = 251220)) := by decide +kernel
/-- X3 and X9 -/
theorem test_extractV :
    after (exec .extractV (given frameC)) (fun t => decide (t.dec.rawV = 16777215)) ∧
    after (exec .extractV (given [0, 0, 0, 0, 0x00, 0x00, 0x01])) (fun t => decide (t.dec.rawV = 65536)) := by
  decide +kernel
/-- X4 and X7 -/
theorem test_extractP :
    after (exec .extractP (given frameC)) (fun t => decide (t.dec.rawP = -8388608)) ∧
    after (exec .extractP (given frameB)) (fun t => decide (t.dec.rawP = 143377)) := by decide +kernel

/-! ### Scaling and power factor: frames B and C, decimals to 12 digits -/

/-- Reset with the raw fields of a frame extracted. -/
def raws (g : GainMode) (i : Int) (v : Nat) (p : Int) : State :=
  { State.reset with
    gainMode := g
    dec := { Decoder.idle with rawI := i, rawV := v, rawP := p } }

/-- `x` is `n / 10 ^ k` to within one unit of that place. -/
def near (x : Rat) (n : Int) (k : Nat) : Bool :=
  decide ((n - 1 : Rat) < x * 10 ^ k ∧ x * 10 ^ k < (n + 1 : Rat))

theorem test_scaleI :
    after (exec .scaleI (raws .std 251220 0 0)) (fun t => decide (t.dec.xI = 7649649 / 7649450)) ∧
    after (exec .scaleI (raws .alt (-1) 0 0)) (fun t => decide (t.dec.xI = -203 / 152989000)) := by
  decide +kernel
theorem test_scaleV :
    after (exec .scaleV (raws .std 0 3652928 0)) (fun t => near t.dec.xV 229984860458 9) ∧
    after (exec .scaleV (raws .alt 0 16777215 0)) (fun t => near t.dec.xV 105627744392 8) := by
  decide +kernel
theorem test_scaleP :
    after (exec .scaleP (raws .std 0 0 143377)) (fun t => near t.dec.xP 229994267165 9) ∧
    after (exec .scaleP (raws .alt 0 0 (-8388608))) (fun t => near t.dec.xP (-474453476713) 7) := by
  decide +kernel
/-- F3 and F5 -/
theorem test_pf_values :
    near (powerFactor (251220 * kI .std) (3652928 * kV) (143377 * kP 511610 .std)) 100001488609 11 ∧
    powerFactor (8388607 * kI .std) (1 * kV) (8388607 * kP 511610 .std) = 2515445138 / 393 := by
  decide +kernel
/-- F2 and F7: no division -/
theorem test_pf_zero : powerFactor (-33) 0 1 = 0 ∧ powerFactor 0 1000 5 = 0 := by decide +kernel
/-- A zero stays a zero, of a sign the spec leaves open (R69, D8). -/
theorem test_out_zero : out 0 = .zero Config.outZeroNegative := if_pos rfl

/-! ### Emit: vectors M3 and M6, in whatever order -/

theorem test_emit_bits : quantities.filter (sinkOn 0b0101) = [.voltage, .power] ∧
    quantities.filter (sinkOn 0b1000) = [.powerFactor] ∧ quantities.filter (sinkOn 0b0000) = [] := by
  decide
/-- M3: voltage and power alone, as a permutation whatever the free order is. -/
theorem test_emit : ∃ t, exec .emit { State.reset with sinkPresent := 0b0101 } = .next t ∧
    t.trace.Perm [.deliver .voltage (.zero false), .deliver .power (.zero false)] := by
  refine ⟨_, rfl, ?_⟩
  generalize Config.emitOrder _ = k
  revert k
  decide

/-! ### Commands: vectors M1, M7, M8 -/

theorem test_poll : after (exec .poll (holding frameB)) (fun t =>
    decide (t = { holding frameB with trace := [.tx [0x58, 0xAA]] })) := by decide
theorem test_nop : after (exec .nop (holding (frameB.take 7))) (fun t =>
    decide (t = holding (frameB.take 7))) := by decide
/-- M8: the partial frame is dropped, the source is kept, the configuration inputs are loaded. -/
theorem test_reset :
    after (exec .reset { holding (frameB.take 9) with src := [1], cfgGain := .alt, cfgSinks := 0b0110 })
      (fun t => decide (t = { fed [1] with
        gainMode := .alt, sinkPresent := 0b0110, cfgGain := .alt, cfgSinks := 0b0110 })) := by decide
/-- A CONFIG line alone changes no register (R96). -/
theorem test_config_line : after (step { State.reset with host := [.config .alt 0] }) (fun t =>
    decide (t.gainMode = .std ∧ t.sinkPresent = 0b1111 ∧ t.cfgGain = .alt)) := by decide

/-! ### Witnesses: states and operands that meet the hypotheses of each statement -/

/-- 22 bytes of frame A held, its last byte waiting, one byte step to run. -/
def atEnd : State := { holding (frameA.take 22) with src := [0x52], host := [.byteStep] }

/-- A stream program that is about to reset to the alternate gain. -/
def toReset : State := { State.reset with cfgGain := .alt, host := [.cmd 0b11, .cmd 0b01] }

theorem witness_StepKeepsInvariant : atEnd.Inv ∧ ∃ t, step atEnd = .next t :=
  ⟨by decide, (next_of_after (p := fun _ => true) (by decide +kernel)).imp fun _ h => h.1⟩
theorem witness_ConfigurationChangesByResetAlone :
    ∃ t, step toReset = .next t ∧ t.gainMode ≠ toReset.gainMode :=
  ⟨_, rfl, by decide⟩
theorem witness_ConfigurationChangesByResetAlone_sinks :
    ∃ t, step { toReset with cfgSinks := 0 } = .next t ∧ t.sinkPresent ≠ toReset.sinkPresent :=
  ⟨_, rfl, by decide⟩
theorem witness_EveryStepFromInvariantCompletes :
    atEnd.Inv ∧ (∀ l ∈ atEnd.host.head?, l.legal = true) ∧ Line.legal (.ustep 9) = true := by decide
theorem witness_HostDrivenRunsNeverStop : toReset.Inv ∧ toReset.HostDriven := by decide
/-- The least and the greatest length that faults. -/
theorem witness_UnreachableLenFaults :
    let s : State := { State.reset with len := 23, host := [.byteStep], src := [0] }
    let t : State := { s with len := 31 }
    (23 ≤ s.len.toNat ∧ s.host = .byteStep :: [] ∧ s.src = 0 :: []) ∧
      (23 ≤ t.len.toNat ∧ t.host = .byteStep :: [] ∧ t.src = 0 :: []) ∧
      ∃ u : State, 23 ≤ u.len.toNat ∧ u.host = .cmd 0b11 :: [] :=
  ⟨by decide, by decide, { State.reset with len := 23, host := [.cmd 0b11] }, by decide⟩
theorem witness_ReservedStepCodesAreRefused :
    (10 ≤ (10 : StepCode).toNat ∧ 10 ≤ (15 : StepCode).toNat ∧ (9 : StepCode).toNat ≤ 9) ∧
      refusesWith (step { State.reset with host := [.ustep 10] }) (.reservedStep 10) := by decide
theorem witness_RxSkipDiscardsTheByte : (0x54 : Byte) ≠ 0x55 ∧ (0x56 : Byte) ≠ 0x55 := by decide
theorem witness_RxFillAppendsAnyByte :
    (1 ≤ (holding [0x55]).len.toNat ∧ (holding [0x55]).len.toNat ≤ 21) ∧
      (holding (frameA.take 21)).len.toNat = 21 := by decide
theorem witness_RxCompleteDecodesAndClears : atEnd.Inv ∧ atEnd.len = 22 := by decide
theorem witness_DrainOfEmptySourceDoesNothing : (holding (frameB.take 7)).src = [] := by decide
theorem witness_DrainConsumesEveryCountedByte : atEnd.Inv ∧ atEnd.src = [0x52] := by decide
theorem witness_DrainChunkingInvariance :
    (holding (frameB.take 10)).Inv ∧
      (State.reset.len = 0 ∧ ∀ x ∈ ([0x00, 0xFF, 0x12] : List Byte), x ≠ 0x55) := by decide
theorem witness_AcceptedHeaderTakesTwentyTwoBytes :
    State.reset.Inv ∧ State.reset.len = 0 ∧ (frameB.drop 1).length = 22 := by decide
/-- The least length with no byte, and a buffer filled to 22. -/
theorem witness_PartialFrameIsHeld :
    ((holding [0x55]).Inv ∧ 1 ≤ (holding [0x55]).len.toNat ∧
        (holding [0x55]).len.toNat + ([] : List Byte).length ≤ 22) ∧
      (holding (frameB.take 10)).Inv ∧ 1 ≤ (holding (frameB.take 10)).len.toNat ∧
        (holding (frameB.take 10)).len.toNat + ((frameB.drop 10).take 12).length = 22 := by decide
theorem witness_CompletionsAreBounded : atEnd.Inv ∧ (atEnd.len.toNat + atEnd.src.length) / 23 = 1 := by
  decide
theorem witness_IntegratedFsdNeverReportsInvalidFrame :
    let s : State := { fed frameB with host := [.cmd 0b01] }
    s.Inv ∧ s.HostDriven ∧ ∃ t, step s = .next t :=
  ⟨by decide, by decide, (next_of_after (p := fun _ => true) (by decide +kernel)).imp fun _ h => h.1⟩
/-- Both branches: frame A's checksum byte, and another one. -/
theorem witness_CompletedFrameOutputs :
    atEnd.Inv ∧ atEnd.len = 22 ∧ goodFrame (atEnd.buf.map Prod.snd ++ [0x52]) ∧
      ¬ goodFrame (atEnd.buf.map Prod.snd ++ [0x53]) := by decide +kernel
theorem witness_OutputsOnlyGrow : ∃ t, step { atEnd with host := [.cmd 0b10] } = .next t := ⟨_, rfl⟩
theorem witness_DecoderKeepsNothingBetweenSteps :
    toReset.HostDriven ∧ toReset.DecoderIdle ∧ ∃ t, step toReset = .next t :=
  ⟨by decide, by decide, _, rfl⟩
theorem witness_OnlyDrainReadsTheSource :
    Instr.rxComplete 0x52 ≠ .drain ∧ ∃ t, exec (.rxComplete 0x52) atEnd = .next t :=
  ⟨by decide, (next_of_after (p := fun _ => true) (by decide +kernel)).imp fun _ h => h.1⟩
/-- A frame, and lists of length 22, 24 and of another header. -/
theorem witness_CheckStructTestsLengthThenHeader :
    shapedFrame (given frameA).dec.frame ∧ ¬ shapedFrame (given (frameA.take 22)).dec.frame ∧
      ¬ shapedFrame (given (frameA ++ [0])).dec.frame ∧
      ¬ shapedFrame (given (frameA.set 0 0x54)).dec.frame := by decide
theorem witness_ChecksumComparesTheComplementedSum :
    let s := given frameB
    let t := given (frameB.set 22 0xB0)
    (s.dec.frame.length = 23 ∧ s.dec.frame[22]? = some 0xAF ∧ 0xAF = expectedChecksum s.dec.frame) ∧
      t.dec.frame.length = 23 ∧ t.dec.frame[22]? = some 0xB0 ∧
        0xB0 ≠ expectedChecksum t.dec.frame := by decide +kernel
theorem witness_AccumulatorLaw :
    frameFFr.length = 23 ∧ (List.range 22).reverse.Perm (List.range 22) := by decide
/-- Every clause at its bounds: byte 0, bytes 1 and 22. -/
theorem witness_SingleByteChangesAreDetected :
    goodFrame frameB ∧ (0x54 : Byte) ≠ frameB.getD 0 0 ∧ (0x55 : Byte) ≠ frameB.getD 1 0 ∧
      (0xB0 : Byte) ≠ frameB.getD 22 0 := by decide +kernel
theorem witness_DecodeOfGoodFrame :
    goodFrame (given frameA).dec.frame ∧ goodFrame (given frameC).dec.frame := by decide +kernel
theorem witness_DecodeOfMisshapenList :
    ¬ shapedFrame (given []).dec.frame ∧ ¬ shapedFrame (given (frameB.set 0 0x54)).dec.frame := by
  decide
theorem witness_DecodeOfMismatchedChecksum :
    let F := (given (frameB.set 22 0xB0)).dec.frame
    shapedFrame F ∧ F.getD 22 0 ≠ expectedChecksum F := by decide +kernel
theorem witness_SignedFieldsAreTwosComplement : (given frameC).dec.frame.length = 23 := by decide
theorem witness_VoltageFieldIsUnsigned : (given frameC).dec.frame.length = 23 := by decide
theorem witness_OutMeetsTheTolerance : (-203 / 152989000 : Rat) ≠ 0 := by decide +kernel
theorem witness_PowerFactorNeverDividesByZero :
    let s : State := { State.reset with dec := { Decoder.idle with xI := 1, xV := 230, xP := 5 } }
    s.dec.xI * s.dec.xV ≠ 0 ∧ State.reset.dec.xI * State.reset.dec.xV = 0 := by decide +kernel
theorem witness_PowerFactorOfRawFields :
    let s := raws .std 251220 3652928 143377
    let t := raws .std (-8388608) 0 1
    let u := raws .alt 0 1000 5
    (s.gainMode = .std ∧ s.dec.rawI ≠ 0 ∧ s.dec.rawV ≠ 0) ∧
      (t.dec.rawI = 0 ∨ t.dec.rawV = 0) ∧ (u.dec.rawI = 0 ∨ u.dec.rawV = 0) := by decide
theorem witness_EveryDeliveryOrderIsAdmitted :
    ([.powerFactor, .power, .current, .voltage] : List Quantity).Perm quantities := by decide
theorem witness_ScaledValuesStayInRange : frameC.length = 23 ∧ frameB.length = 23 := by decide
/-- The top bytes 0x80 and 0x7F of either signed field. -/
theorem witness_SignBitDecidesTheSign :
    let s := given ((frameA.set 3 0x80).set 12 0x7F)
    let t := given ((frameA.set 3 0x7F).set 12 0x80)
    (s.dec.frame.length = 23 ∧ 0 < s.pAltDiv ∧ 128 ≤ byteAt s.dec.frame 3 ∧
        byteAt s.dec.frame 12 < 128) ∧
      t.dec.frame.length = 23 ∧ 0 < t.pAltDiv ∧ byteAt t.dec.frame 3 < 128 ∧
        128 ≤ byteAt t.dec.frame 12 := by decide
/-- The bounds of every clause: 0, 1, 22, 23. -/
theorem witness_SyncStateFollowsLength :
    (0 : Len) = 0 ∧ (1 ≤ (1 : Len).toNat ∧ (1 : Len).toNat ≤ 22) ∧
      (1 ≤ (22 : Len).toNat ∧ (22 : Len).toNat ≤ 22) ∧ (23 : Len).toNat = 23 ∧ atEnd.Inv := by decide
theorem witness_KeyMapFollowsTheRows :
    23 ≤ (keyLen 0x1700).toNat ∧ (keyLen 0x16FF).toNat < 23 ∧ (keyLen 0x0000).toNat < 23 := by decide
theorem witness_DecodeEncodeRoundTrip :
    (Instr.rxFill 21 0x55).wellFormed = true ∧ decode (.key 0x0055) = .ok .rxHeader := by decide
theorem witness_StepRunsTheDecodedOperation :
    (∃ s : State, s.len.toNat = 22 ∧ s.host = .cmd 0b01 :: [] ∧ decode (.cmd 0b01) = .ok .drain) ∧
      (atEnd.host = .byteStep :: [] ∧ atEnd.src = 0x52 :: [] ∧
        decode (.key (mkKey atEnd.len 0x52)) = .ok (.rxComplete 0x52)) ∧
      (∃ s : State, s.host = .ustep 9 :: [] ∧ decode (.ustep 9) = .ok .emit) ∧
      ∃ s : State, s.host = .decodeCall :: [] ∧ decode .call = .ok .decode :=
  ⟨⟨{ atEnd with host := [.cmd 0b01] }, by decide⟩, by decide,
    ⟨{ State.reset with host := [.ustep 9] }, by decide⟩,
    ⟨{ State.reset with host := [.decodeCall] }, by decide⟩⟩
/-- Each of the three ways: a completing byte, a filling byte, a command that leaves the buffer. -/
theorem witness_BufferChangesByAppendOrClear :
    (atEnd.Inv ∧ atEnd.host.head? ≠ some (.cmd 0b01)) ∧
      (let s : State := { holding [0x55] with src := [1], host := [.byteStep] }
       s.Inv ∧ s.host.head? ≠ some (.cmd 0b01) ∧ ∃ t, step s = .next t) ∧
      ∃ t, step { atEnd with host := [.cmd 0b10] } = .next t :=
  ⟨by decide, ⟨by decide, by decide,
    (next_of_after (p := fun _ => true) (by decide +kernel)).imp fun _ h => h.1⟩, _, rfl⟩

end Sys2Proof.Tests
end

section
/-! PROOFS. What a step does with the operation it fetches, and the two statements of the scope: where the machine
stops at `len ≥ 23`, and that a step runs the operation its selector word decodes to. -/

namespace Sys2Proof.Machine

/-- A command line selects its code (R41). -/
theorem fetch_cmd {s : State} {rest : List Line} {c : Cmd} (h : s.host = .cmd c :: rest) :
    fetch s = .operation (.cmd c) { s with host := rest } := by
  simp [fetch, h]

/-- A byte step forms its KEY from `len` and the byte it removes (R39, R47). -/
theorem fetch_byteStep {s : State} {rest : List Line} {byte : Byte} {bytes : List Byte}
    (h : s.host = .byteStep :: rest) (hsrc : s.src = byte :: bytes) :
    fetch s = .operation (.key (mkKey s.len byte)) { s with host := rest, src := bytes } := by
  simp [fetch, h, hsrc]

/-- A STEP line selects its code (R43). -/
theorem fetch_ustep {s : State} {rest : List Line} {c : StepCode} (h : s.host = .ustep c :: rest) :
    fetch s = .operation (.ustep c) { s with host := rest } := by
  simp [fetch, h]

theorem fetch_decodeCall {s : State} {rest : List Line} (h : s.host = .decodeCall :: rest) :
    fetch s = .operation .call { s with host := rest } := by
  simp [fetch, h]

/-- A step whose length is no legal one stops before its word is decoded (R12, R45, D20). -/
theorem step_of_stepFaults {s t : State} {sel : Select} (hf : fetch s = .operation sel t)
    (hs : stepFaults sel t = true) : step s = .fault .unreachableLen := by
  simp [step, hf, hs]

/-- A step that does not stop at its start runs the operation its word decodes to (R5). -/
theorem step_of_decode {s t : State} {sel : Select} {i : Instr} (hf : fetch s = .operation sel t)
    (hs : stepFaults sel t = false) (hd : decode sel = .ok i) : step s = exec i t := by
  simp [step, hf, hs, hd]

/-- FAULT faults in every state (R45). -/
theorem exec_fault (len : Len) (byte : Byte) (s : State) :
    exec (.fault len byte) s = .fault .unreachableLen := rfl

/-- The first row of the operation map: a KEY with `len ≥ 23` is FAULT (R40). -/
theorem decode_key_of_unreachableLen {len : Len} (byte : Byte) (h : 23 ≤ len.toNat) :
    decode (.key (mkKey len byte)) = .ok (.fault len byte) := by
  simp [decode, decodeKey, h]

/-- On a KEY the check at the start of a step and the FAULT row agree, so for every `len` a step is
`exec` of what its KEY decodes to (R40, R45, R47). -/
theorem step_of_decode_key {s t : State} {byte : Byte} {i : Instr}
    (hf : fetch s = .operation (.key (mkKey s.len byte)) t) (hlen : t.len = s.len)
    (hd : decode (.key (mkKey s.len byte)) = .ok i) : step s = exec i t := by
  by_cases h : 23 ≤ s.len.toNat
  · have hi : i = .fault s.len byte :=
      Except.ok.inj (hd.symm.trans (decode_key_of_unreachableLen byte h))
    rw [hi, exec_fault]
    exact step_of_stepFaults hf (by simp [hlen, h])
  · exact step_of_decode hf (by simp [hlen, h]) hd

/-- SYNC_STEP with a byte available faults at `len ≥ 23` (R47). -/
theorem syncStep_of_unreachableLen {s : State} {byte : Byte} {bytes : List Byte}
    (h : 23 ≤ s.len.toNat) (hsrc : s.src = byte :: bytes) :
    syncStep s = .fault .unreachableLen := by
  simp [syncStep, hsrc, h]

/-- DRAIN of a source that is not empty begins with one SYNC_STEP; a fault there ends it (R52). -/
theorem execDrain_of_syncStep_fault {s : State} {byte : Byte} {bytes : List Byte} {r : Fault}
    (hsrc : s.src = byte :: bytes) (h : syncStep s = .fault r) : execDrain s = .fault r := by
  simp [execDrain, hsrc, syncSteps, h]

/-- Settles O7: the check at the start of a step stops the byte step and the command, and DRAIN stops in
its first SYNC_STEP. -/
theorem unreachableLenFaults : Obligations.UnreachableLenFaults := by
  refine ⟨exec_fault, ?byte, ?cmd, ?drain⟩
  case byte =>
    intro s rest byte bytes hlen hhost hsrc
    exact step_of_stepFaults (fetch_byteStep hhost hsrc) (by simp [hlen])
  case cmd =>
    intro s rest c hlen hhost
    exact step_of_stepFaults (fetch_cmd hhost) (by simp [hlen])
  case drain =>
    intro s byte bytes hlen hsrc
    exact execDrain_of_syncStep_fault hsrc (syncStep_of_unreachableLen hlen hsrc)

/-- Settles O51: each kind of line fetches its word, and the step runs what the word decodes to. The
check on `len` cannot fire for a command with `len ≤ 22`, agrees with the FAULT row for a byte, and is not
made for a STEP code or a DECODE call. -/
theorem stepRunsTheDecodedOperation : Obligations.StepRunsTheDecodedOperation := by
  intro s rest i
  refine ⟨?cmd, ?byte, ?ustep, ?call⟩
  case cmd =>
    intro c hlen hhost hd
    exact step_of_decode (fetch_cmd hhost) (stepFaults_of_legal _ hlen) hd
  case byte =>
    intro byte bytes hhost hsrc hd
    exact step_of_decode_key (fetch_byteStep hhost hsrc) rfl hd
  case ustep =>
    intro c hhost hd
    exact step_of_decode (fetch_ustep hhost) (stepFaults_ustep c _) hd
  case call =>
    intro hhost hd
    exact step_of_decode (fetch_decodeCall hhost) (stepFaults_call _) hd

end Sys2Proof.Machine
end

section
/-! PROOFS. The state after reset, the invariant of R19 and what a step can do: the statements about reset,
`SYNC_STATE`, the buffer's invariant and the idle decoder. -/

namespace Sys2Proof.Machine

/-! ### SYNC_STATE (R11) -/

@[simp] theorem syncStateOf_zero : syncStateOf 0 = .seeking := rfl

theorem syncStateOf_eq_filling {len : Len} (h : 1 ≤ len.toNat) (h' : len.toNat ≤ 22) :
    syncStateOf len = .filling := by
  have h0 : len ≠ 0 := by rintro rfl; simp at h
  rw [syncStateOf, if_neg h0, if_pos h']

theorem syncStateOf_eq_frameReady {len : Len} (h : len.toNat = 23) :
    syncStateOf len = .frameReady := by
  have h0 : len ≠ 0 := by rintro rfl; simp at h
  rw [syncStateOf, if_neg h0, if_neg (by omega), if_pos h]

/-- A length is 0 or at least 1. -/
theorem len_eq_zero_or_pos (len : Len) : len = 0 ∨ 1 ≤ len.toNat := by bv_omega

/-- Settles O47: the three ranges of `len` give the three states, and a legal length is in one of the
first two. -/
theorem syncStateFollowsLength : Obligations.SyncStateFollowsLength := by
  refine ⟨fun len => ⟨?seeking, syncStateOf_eq_filling, syncStateOf_eq_frameReady, ?reserved⟩,
    rfl, rfl, rfl, ?legal⟩
  case seeking =>
    rintro rfl
    exact syncStateOf_zero
  case reserved =>
    intro hle
    obtain rfl | hpos := len_eq_zero_or_pos len
    · decide
    · obtain h22 | h23 : len.toNat ≤ 22 ∨ len.toNat = 23 := by omega
      · rw [syncStateOf_eq_filling hpos h22]
        decide
      · rw [syncStateOf_eq_frameReady h23]
        decide
  case legal =>
    rintro s ⟨hle, -⟩
    obtain h0 | hpos := len_eq_zero_or_pos s.len
    · exact .inl (by rw [State.syncState, h0, syncStateOf_zero])
    · exact .inr (syncStateOf_eq_filling hpos hle)

/-! ### The invariant (R19) -/

/-- The invariant speaks of `len` and `buf` alone. -/
theorem inv_of_same_buffer {s t : State} (hs : s.Inv) (hlen : t.len = s.len) (hbuf : t.buf = s.buf) :
    t.Inv := by
  rwa [State.Inv, hlen, hbuf]

/-- SEEKING with an empty buffer meets the invariant. -/
theorem inv_of_empty {s : State} (hlen : s.len = 0) (hbuf : s.buf = []) : s.Inv := by
  simp [State.Inv, hlen, hbuf]

/-- Appending a byte to a buffer that is not full keeps the invariant, if the first byte is the header
(R13, R22). -/
theorem inv_of_append {s t : State} {byte : Byte} (hs : s.Inv) (hle : s.len.toNat ≤ 21)
    (hheader : s.len = 0 → byte = Config.header) (hlen : t.len = s.len + 1)
    (hbuf : t.buf = Memory.write s.buf s.len.toNat byte) : t.Inv := by
  obtain ⟨-, hlive, hfirst⟩ := hs
  have hlen' : t.len.toNat = s.len.toNat + 1 := by rw [hlen]; bv_omega
  refine ⟨by omega, ?live, fun _ => ?first⟩
  case live => rw [hbuf, hlen', live_append byte hlive]
  case first =>
    obtain h0 | hpos := len_eq_zero_or_pos s.len
    · rw [hbuf, hheader h0, h0]
      exact read_write_same ..
    · rw [hbuf, read_write_of_ne _ _ (by omega), hfirst hpos]

/-- Settles O1: the fields of the reset state are the table's values. -/
theorem resetLeavesTheTableValues : Obligations.ResetLeavesTheTableValues :=
  ⟨rfl, rfl, rfl, rfl, rfl, rfl, rfl⟩

/-- Settles O2: the buffer is empty at reset, and so is the decoder. -/
theorem invariantHoldsAtReset : Obligations.InvariantHoldsAtReset :=
  ⟨inv_of_empty rfl rfl, rfl⟩

/-! ### What a step can do -/

/-- Everything a step that answers can do: nothing is left to run, the environment acts, or the
operation that the fetched word decodes to runs (R5, R90). -/
theorem step_cases {s t : State} (h : step s = .next t) :
    (fetch s = .idle ∧ t = s) ∨ fetch s = .environment t ∨
      ∃ sel u i, fetch s = .operation sel u ∧ stepFaults sel u = false ∧ decode sel = .ok i ∧
        exec i u = .next t := by
  cases hf : fetch s with
  | idle => exact .inl ⟨rfl, by simpa [step, hf] using h.symm⟩
  | environment u => exact .inr (.inl (by simpa [step, hf] using h))
  | operation sel u =>
    cases hs : stepFaults sel u with
    | true => simp [step_of_stepFaults hf hs] at h
    | false =>
      cases hd : decode sel with
      | error r => simp [step, hf, hs, hd] at h
      | ok i => exact .inr (.inr ⟨sel, u, i, rfl, hs, hd, step_of_decode hf hs hd ▸ h⟩)

/-- Every line on which the environment alone acts, with what it does. -/
theorem fetch_environment_cases {s t : State} (h : fetch s = .environment t) :
    (∃ bytes rest, s.host = .src bytes :: rest ∧
      t = { s with host := rest, src := s.src ++ bytes }) ∨
    (∃ gain sinks rest, s.host = .config gain sinks :: rest ∧
      t = { s with host := rest, cfgGain := gain, cfgSinks := sinks }) ∨
    (∃ rest, s.host = .byteStep :: rest ∧ s.src = [] ∧ t = { s with host := rest }) ∨
    (∃ F rest, s.host = .frame F :: rest ∧ t = { s.handFrame F with host := rest }) := by
  cases hhost : s.host with
  | nil => simp [fetch, hhost] at h
  | cons l rest =>
    cases l with
    | src bytes => exact .inl ⟨bytes, rest, rfl, by simpa [fetch, hhost] using h.symm⟩
    | config gain sinks =>
      exact .inr (.inl ⟨gain, sinks, rest, rfl, by simpa [fetch, hhost] using h.symm⟩)
    | byteStep =>
      cases hsrc : s.src with
      | nil => exact .inr (.inr (.inl ⟨rest, rfl, rfl, by simpa [fetch, hhost, hsrc] using h.symm⟩))
      | cons byte bytes => simp [fetch_byteStep hhost hsrc] at h
    | frame F => exact .inr (.inr (.inr ⟨F, rest, rfl, by simpa [fetch, hhost] using h.symm⟩))
    | cmd c => simp [fetch_cmd hhost] at h
    | decodeCall => simp [fetch_decodeCall hhost] at h
    | ustep c => simp [fetch_ustep hhost] at h

/-- Every line that selects an operation, with its word and the state in which the operation runs. -/
theorem fetch_operation_cases {s u : State} {sel : Select} (h : fetch s = .operation sel u) :
    (∃ c rest, s.host = .cmd c :: rest ∧ sel = .cmd c ∧ u = { s with host := rest }) ∨
    (∃ byte bytes rest, s.host = .byteStep :: rest ∧ s.src = byte :: bytes ∧
      sel = .key (mkKey s.len byte) ∧ u = { s with host := rest, src := bytes }) ∨
    (∃ rest, s.host = .decodeCall :: rest ∧ sel = .call ∧ u = { s with host := rest }) ∨
    (∃ c rest, s.host = .ustep c :: rest ∧ sel = .ustep c ∧ u = { s with host := rest }) := by
  cases hhost : s.host with
  | nil => simp [fetch, hhost] at h
  | cons l rest =>
    cases l with
    | src bytes => simp [fetch, hhost] at h
    | config gain sinks => simp [fetch, hhost] at h
    | frame F => simp [fetch, hhost] at h
    | cmd c =>
      rw [fetch_cmd hhost] at h
      cases h
      exact .inl ⟨c, rest, rfl, rfl, rfl⟩
    | byteStep =>
      cases hsrc : s.src with
      | nil => simp [fetch, hhost, hsrc] at h
      | cons byte bytes =>
        rw [fetch_byteStep hhost hsrc] at h
        cases h
        exact .inr (.inl ⟨byte, bytes, rest, rfl, rfl, rfl, rfl⟩)
    | decodeCall =>
      rw [fetch_decodeCall hhost] at h
      cases h
      exact .inr (.inr (.inl ⟨rest, rfl, rfl, rfl⟩))
    | ustep c =>
      rw [fetch_ustep hhost] at h
      cases h
      exact .inr (.inr (.inr ⟨c, rest, rfl, rfl, rfl⟩))

/-- The environment's own actions leave the synchronizer alone (R17). -/
theorem fetch_environment_buffer {s t : State} (h : fetch s = .environment t) :
    t.len = s.len ∧ t.buf = s.buf := by
  obtain ⟨_, _, -, rfl⟩ | ⟨_, _, _, -, rfl⟩ | ⟨_, -, -, rfl⟩ | ⟨_, _, -, rfl⟩ :=
    fetch_environment_cases h
  all_goals exact ⟨rfl, rfl⟩

/-! ### Byte steps (R47) -/

/-- SYNC_STEP of an available byte is the operation its KEY decodes to (R40, R47). -/
theorem syncStep_eq_exec {s : State} {byte : Byte} {bytes : List Byte} (hsrc : s.src = byte :: bytes) :
    syncStep s = exec (decodeKey (mkKey s.len byte)) { s with src := bytes } := by
  simp only [syncStep, hsrc, decodeKey, keyLen_mkKey, keyByte_mkKey]
  by_cases hstop : 23 ≤ s.len.toNat
  · simp only [if_pos hstop, exec_fault]
  · by_cases h0 : s.len = 0
    · by_cases hheader : byte = Config.header
      · simp only [if_neg hstop, if_pos h0, if_pos hheader, if_pos (And.intro h0 hheader)]
        rfl
      · have hno : ¬(s.len = 0 ∧ byte = Config.header) := fun h => hheader h.2
        simp only [if_neg hstop, if_pos h0, if_neg hheader, if_neg hno]
        rfl
    · have hno : ¬(s.len = 0 ∧ byte = Config.header) := fun h => h0 h.1
      by_cases h22 : s.len.toNat = 22
      · simp only [if_neg hstop, if_neg h0, if_pos h22, if_neg hno]
        rfl
      · simp only [if_neg hstop, if_neg h0, if_neg h22, if_neg hno]
        rfl

/-- RX_COMPLETE that answers read the whole buffer, decoded it and ended the frame (R51). -/
theorem execRxComplete_cases {byte : Byte} {s t : State} (h : execRxComplete byte s = .next t) :
    ∃ F u, Memory.readBytes (Memory.write s.buf 22 byte) 0 Config.frameLen = some F ∧
      execDecode (State.handFrame { s with buf := Memory.write s.buf 22 byte, len := 23 } F) =
        .next u ∧ t = endFrame u := by
  rw [execRxComplete, appendByte_next _ _ _ (by decide), thenDo_next] at h
  dsimp only at h
  split at h
  · cases h
  · next F hF =>
    obtain ⟨u, hu, ht⟩ := thenDo_eq_next.1 h
    cases ht
    exact ⟨F, u, hF, hu, rfl⟩

/-- Everything a byte step that answers can do: it discards the byte in SEEKING, appends it (the header in
SEEKING, any byte in FILLING), or completes a frame (R48, R49, R50, R51). -/
theorem syncStep_cases {s t : State} (h : syncStep s = .next t) :
    ∃ byte bytes, s.src = byte :: bytes ∧
      ((s.len = 0 ∧ byte ≠ Config.header ∧ t = { s with src := bytes }) ∨
        (s.len.toNat ≤ 21 ∧ (s.len = 0 → byte = Config.header) ∧
          t = { s with
            src := bytes
            buf := Memory.write s.buf s.len.toNat byte
            len := s.len + 1 }) ∨
        (s.len.toNat = 22 ∧ execRxComplete byte { s with src := bytes } = .next t)) := by
  cases hsrc : s.src with
  | nil => simp [syncStep, hsrc] at h
  | cons byte bytes =>
    refine ⟨byte, bytes, rfl, ?_⟩
    simp only [syncStep, hsrc] at h
    split_ifs at h with hstop hheader h0 h22
    · obtain ⟨h0, rfl⟩ := hheader
      obtain ⟨-, rfl⟩ := appendByte_cases h
      exact .inr (.inl ⟨by simp [h0], fun _ => rfl, by simp [h0]⟩)
    · cases h
      exact .inl ⟨h0, fun hb => hheader ⟨h0, hb⟩, rfl⟩
    · exact .inr (.inr ⟨h22, h⟩)
    · obtain ⟨-, rfl⟩ := appendByte_cases h
      exact .inr (.inl ⟨by omega, fun hz => absurd hz h0, rfl⟩)

/-- What every byte step keeps, a repetition of byte steps keeps (R52). -/
theorem syncSteps_keep {P : State → Prop} (hP : ∀ s t, P s → syncStep s = .next t → P t)
    {n : Nat} {s t : State} (hs : P s) (h : syncSteps n s = .next t) : P t := by
  induction n generalizing s with
  | zero => cases h; exact hs
  | succ n ih =>
    obtain ⟨u, hu, ht⟩ := thenDo_eq_next.1 h
    exact ih (hP s u hs hu) ht

/-- A byte step keeps the invariant (R22). -/
theorem syncStep_keeps_inv {s t : State} (hs : s.Inv) (h : syncStep s = .next t) : t.Inv := by
  obtain ⟨byte, bytes, -, ⟨-, -, rfl⟩ | ⟨hle, hheader, rfl⟩ | ⟨-, hc⟩⟩ := syncStep_cases h
  · exact inv_of_same_buffer hs rfl rfl
  · exact inv_of_append hs hle hheader rfl rfl
  · obtain ⟨F, u, -, -, rfl⟩ := execRxComplete_cases hc
    exact inv_of_empty rfl rfl

/-- A byte step leaves an idle decoder idle: only a completing byte uses it, and the frame's end empties
it (R10). -/
theorem syncStep_keeps_idle {s t : State} (hs : s.DecoderIdle) (h : syncStep s = .next t) :
    t.DecoderIdle := by
  obtain ⟨byte, bytes, -, ⟨-, -, rfl⟩ | ⟨-, -, rfl⟩ | ⟨-, hc⟩⟩ := syncStep_cases h
  · exact hs
  · exact hs
  · obtain ⟨F, u, -, -, rfl⟩ := execRxComplete_cases hc
    exact endFrame_dec u

/-! ### Host commands (R41) -/

/-- Everything a host command that answers can do. -/
theorem exec_command_cases {c : Cmd} {i : Instr} {s t : State} (hd : decode (.cmd c) = .ok i)
    (h : exec i s = .next t) :
    (c = 0b00 ∧ t = s) ∨ (c = 0b01 ∧ syncSteps s.src.length s = .next t) ∨
      (c = 0b10 ∧ t = s.emit (.tx Config.pollCmd)) ∨
      (c = 0b11 ∧ t = { s.clearBuffer with gainMode := s.cfgGain, sinkPresent := s.cfgSinks }) := by
  obtain rfl : decodeCmd c = i := Except.ok.inj hd
  obtain rfl | rfl | rfl | rfl : c = 0b00 ∨ c = 0b01 ∨ c = 0b10 ∨ c = 0b11 := by bv_omega
  · cases h
    exact .inl ⟨rfl, rfl⟩
  · exact .inr (.inl ⟨rfl, h⟩)
  · cases h
    exact .inr (.inr (.inl ⟨rfl, rfl⟩))
  · cases h
    exact .inr (.inr (.inr ⟨rfl, rfl⟩))

/-- A host command keeps the invariant. -/
theorem exec_command_keeps_inv {c : Cmd} {i : Instr} {s t : State} (hs : s.Inv)
    (hd : decode (.cmd c) = .ok i) (h : exec i s = .next t) : t.Inv := by
  obtain ⟨-, rfl⟩ | ⟨-, hdrain⟩ | ⟨-, rfl⟩ | ⟨-, rfl⟩ := exec_command_cases hd h
  · exact hs
  · exact syncSteps_keep (P := State.Inv) (fun _ _ => syncStep_keeps_inv) hs hdrain
  · exact inv_of_same_buffer hs rfl rfl
  · exact inv_of_empty rfl rfl

/-- A host command leaves an idle decoder idle. -/
theorem exec_command_keeps_idle {c : Cmd} {i : Instr} {s t : State} (hs : s.DecoderIdle)
    (hd : decode (.cmd c) = .ok i) (h : exec i s = .next t) : t.DecoderIdle := by
  obtain ⟨-, rfl⟩ | ⟨-, hdrain⟩ | ⟨-, rfl⟩ | ⟨-, rfl⟩ := exec_command_cases hd h
  · exact hs
  · exact syncSteps_keep (P := State.DecoderIdle) (fun _ _ => syncStep_keeps_idle) hs hdrain
  · exact hs
  · exact hs

/-! ### The decoder's operations (R43, R57) -/

/-- From `s` to `t` only the decoder's values, the outputs and the free-value counter may have changed. -/
def ChangesDecoderOnly (s t : State) : Prop :=
  t = { s with dec := t.dec, trace := t.trace, choices := t.choices }

/-- An operation run in `s` answers, and changes the decoder's values and the outputs only. -/
def AnswersWithinDecoder (s : State) (o : Outcome) : Prop :=
  ∃ t, o = .next t ∧ ChangesDecoderOnly s t

theorem AnswersWithinDecoder.next {s t : State} (h : ChangesDecoderOnly s t) :
    AnswersWithinDecoder s (.next t) := ⟨t, rfl, h⟩

theorem AnswersWithinDecoder.trans {s t : State} {o : Outcome} (h : ChangesDecoderOnly s t)
    (ho : AnswersWithinDecoder t o) : AnswersWithinDecoder s o := by
  obtain ⟨u, rfl, hu⟩ := ho
  unfold ChangesDecoderOnly at h hu
  rw [h] at hu
  exact .next hu

/-- DECODE's next micro-step stays within the decoder when what ran before it and it do. -/
theorem AnswersWithinDecoder.unlessEnded {s : State} {o : Outcome} {f : State → Outcome}
    (ho : AnswersWithinDecoder s o) (hf : ∀ t, AnswersWithinDecoder t (f t)) :
    AnswersWithinDecoder s (unlessEnded o f) := by
  obtain ⟨t, rfl, ht⟩ := ho
  cases hr : t.dec.result with
  | some r => rw [unlessEnded_ended hr]; exact .next ht
  | none => rw [unlessEnded_running hr]; exact .trans ht (hf t)

theorem execCheckStruct_within (s : State) : AnswersWithinDecoder s (execCheckStruct s) := by
  unfold execCheckStruct
  split <;> exact .next rfl

theorem execChecksum_within (s : State) : AnswersWithinDecoder s (execChecksum s) := by
  unfold execChecksum
  dsimp only
  split <;> exact .next rfl

/-- DECODE stays within the decoder: its two checks do, and each later step is one record update. -/
theorem execDecode_within (s : State) : AnswersWithinDecoder s (execDecode s) := by
  have hcheck : AnswersWithinDecoder s (execCheckStruct (s.handFrame s.dec.frame)) :=
    .trans (t := s.handFrame s.dec.frame) rfl (execCheckStruct_within _)
  exact hcheck
    |>.unlessEnded execChecksum_within
    |>.unlessEnded (f := execExtractI) (fun _ => .next rfl)
    |>.unlessEnded (f := execExtractV) (fun _ => .next rfl)
    |>.unlessEnded (f := execExtractP) (fun _ => .next rfl)
    |>.unlessEnded (f := execScaleI) (fun _ => .next rfl)
    |>.unlessEnded (f := execScaleV) (fun _ => .next rfl)
    |>.unlessEnded (f := execScaleP) (fun _ => .next rfl)
    |>.unlessEnded (f := execPf) (fun _ => .next rfl)
    |>.unlessEnded (f := execEmit) (fun _ => .next rfl)
    |>.unlessEnded (f := fun t => .next (returnOk t)) (fun _ => .next rfl)

/-- The operations of the decoder: DECODE and the ten micro-steps (R43). -/
def decoderOps : List Instr :=
  [.decode, .checkStruct, .checksum, .extractI, .extractV, .extractP, .scaleI, .scaleV, .scaleP, .pf,
    .emit]

/-- Every operation of the decoder answers and leaves the rest of the state alone (R10, R57). -/
theorem exec_decoderOps_within {i : Instr} (hi : i ∈ decoderOps) (s : State) :
    AnswersWithinDecoder s (exec i s) := by
  simp only [decoderOps, List.mem_cons, List.not_mem_nil, or_false] at hi
  obtain rfl | rfl | rfl | hi := hi
  · exact execDecode_within s
  · exact execCheckStruct_within s
  · exact execChecksum_within s
  · obtain rfl | rfl | rfl | rfl | rfl | rfl | rfl | rfl := hi
    all_goals exact .next rfl

theorem decode_call_mem {i : Instr} (h : decode .call = .ok i) : i ∈ decoderOps := by
  cases h
  decide

/-- A STEP code that is accepted is one of the ten micro-steps (R43). -/
theorem decode_ustep_mem {c : StepCode} {i : Instr} (h : decode (.ustep c) = .ok i) :
    i ∈ decoderOps := by
  simp only [decode, decodeStepCode] at h
  split at h <;> cases h <;> decide

/-- An operation of the decoder keeps the invariant. -/
theorem exec_decoderOps_keeps_inv {i : Instr} {s t : State} (hi : i ∈ decoderOps) (hs : s.Inv)
    (h : exec i s = .next t) : t.Inv := by
  obtain ⟨u, hu, hframe⟩ := exec_decoderOps_within hi s
  obtain rfl : u = t := by simpa [hu] using h
  rw [hframe]
  exact hs

/-! ### The two statements about every step -/

/-- Settles O3: the environment leaves the buffer alone, a command or a byte appends, clears or leaves it,
and the decoder's operations do not touch it. -/
theorem stepKeepsInvariant : Obligations.StepKeepsInvariant := by
  intro s t hs h
  obtain ⟨-, rfl⟩ | henv | ⟨sel, u, i, hfetch, -, hd, hx⟩ := step_cases h
  · exact hs
  · obtain ⟨hlen, hbuf⟩ := fetch_environment_buffer henv
    exact inv_of_same_buffer hs hlen hbuf
  · obtain ⟨c, rest, -, rfl, rfl⟩ | ⟨byte, bytes, rest, -, hsrc, rfl, rfl⟩ | ⟨rest, -, rfl, rfl⟩ |
      ⟨c, rest, -, rfl, rfl⟩ := fetch_operation_cases hfetch
    · exact exec_command_keeps_inv (s := { s with host := rest }) hs hd hx
    · have hsync : syncStep { s with host := rest } = .next t := by
        rw [syncStep_eq_exec (s := { s with host := rest }) hsrc, Except.ok.inj hd]
        exact hx
      exact syncStep_keeps_inv (s := { s with host := rest }) hs hsync
    · exact exec_decoderOps_keeps_inv (s := { s with host := rest }) (decode_call_mem hd) hs hx
    · exact exec_decoderOps_keeps_inv (s := { s with host := rest }) (decode_ustep_mem hd) hs hx

/-- The first line of a stream program is none of the bench lines (R46, R78). -/
theorem isProgram_of_hostDriven {s : State} {l : Line} {rest : List Line} (hs : s.HostDriven)
    (h : s.host = l :: rest) : l.isProgram = true :=
  hs l (h ▸ List.mem_cons_self)

/-- Settles O23: on a stream program's lines only commands run operations, and of those only DRAIN uses
the decoder, in byte steps that each leave it idle. -/
theorem decoderKeepsNothingBetweenSteps : Obligations.DecoderKeepsNothingBetweenSteps := by
  intro s t hprog hs h
  obtain ⟨-, rfl⟩ | henv | ⟨sel, u, i, hfetch, -, hd, hx⟩ := step_cases h
  · exact hs
  · obtain ⟨_, _, -, rfl⟩ | ⟨_, _, _, -, rfl⟩ | ⟨_, -, -, rfl⟩ | ⟨_, _, hhost, -⟩ :=
      fetch_environment_cases henv
    · exact hs
    · exact hs
    · exact hs
    · cases isProgram_of_hostDriven hprog hhost
  · obtain ⟨c, rest, -, rfl, rfl⟩ | ⟨_, _, _, hhost, -⟩ | ⟨_, hhost, -⟩ | ⟨_, _, hhost, -⟩ :=
      fetch_operation_cases hfetch
    · exact exec_command_keeps_idle (s := { s with host := rest }) hs hd hx
    all_goals cases isProgram_of_hostDriven hprog hhost

end Sys2Proof.Machine
end

section
/-! PROOFS. What a step may do to the outputs, the byte source and the buffer: outputs only grow, only DRAIN reads
the source, and outside DRAIN the buffer changes by an append or a clear. -/

namespace Sys2Proof.Machine

/-! ### What the decoder's operations do, whatever the source holds (R10, R43) -/

/-- `s` after work of the decoder: its values, the outputs it added and the free-value counter. -/
def State.decoded (s : State) (d : Decoder) (new : List Event) (n : Nat) : State :=
  { s with dec := d, trace := s.trace ++ new, choices := n }

theorem decoded_decoded (s : State) (d d' : Decoder) (new new' : List Event) (n n' : Nat) :
    (s.decoded d new n).decoded d' new' n' = s.decoded d' (new ++ new') n' := by
  simp [State.decoded]

/-- `f` always answers, works in the decoder alone, appends to the outputs, and does the same whatever
bytes the source holds. -/
def ActsInDecoder (f : State → Outcome) : Prop :=
  ∀ s : State, ∃ d new n, ∀ bytes : List Byte,
    f { s with src := bytes } = .next ({ s with src := bytes }.decoded d new n)

/-- An operation that only sets decoder values, from fields other than the source. -/
theorem ActsInDecoder.of_set {φ : State → Decoder}
    (hφ : ∀ (s : State) (bytes : List Byte), φ { s with src := bytes } = φ s) :
    ActsInDecoder fun s => .next { s with dec := φ s } := fun s =>
  ⟨φ s, [], s.choices, fun bytes => by simp [State.decoded, hφ]⟩

/-- DECODE's next micro-step acts in the decoder when what ran before it and it do. -/
theorem ActsInDecoder.unlessEnded {f g : State → Outcome} (hf : ActsInDecoder f)
    (hg : ActsInDecoder g) : ActsInDecoder fun s => unlessEnded (f s) g := by
  intro s
  obtain ⟨d, new, n, hf⟩ := hf s
  cases hr : d.result with
  | some r =>
    refine ⟨d, new, n, fun bytes => ?_⟩
    dsimp only
    rw [hf]
    exact unlessEnded_ended hr
  | none =>
    obtain ⟨d', new', n', hg⟩ := hg (s.decoded d new n)
    refine ⟨d', new ++ new', n', fun bytes => ?_⟩
    dsimp only
    rw [hf, unlessEnded_running hr, ← decoded_decoded]
    exact hg bytes

theorem execCheckStruct_acts : ActsInDecoder execCheckStruct := by
  intro s
  by_cases h : structureOk s.dec.frame
  · exact ⟨s.dec, [], s.choices, fun bytes => by simp [execCheckStruct, h, State.decoded]⟩
  · exact ⟨{ s.dec with result := some (.error .invalidFrame) }, [.diag .invalidFrame], s.choices,
      fun bytes => if_neg h⟩

theorem execChecksum_acts : ActsInDecoder execChecksum := by
  intro s
  let ck := checksumCalc s.dec.frame
  let rx := frameByte s.dec.frame Config.ckIndex
  by_cases h : ck = rx
  · refine ⟨{ s.dec with ckCalc := ck }, [], s.choices, fun bytes => (if_pos h).trans ?_⟩
    simp [State.decoded, ck]
  · exact ⟨{ s.dec with ckCalc := ck, result := some (.error (.checksumMismatch ck rx)) },
      [.diag (.checksumMismatch ck rx)], s.choices, fun bytes => if_neg h⟩

theorem execExtractI_acts : ActsInDecoder execExtractI := .of_set fun _ _ => rfl
theorem execExtractV_acts : ActsInDecoder execExtractV := .of_set fun _ _ => rfl
theorem execExtractP_acts : ActsInDecoder execExtractP := .of_set fun _ _ => rfl
theorem execScaleI_acts : ActsInDecoder execScaleI := .of_set fun _ _ => rfl
theorem execScaleV_acts : ActsInDecoder execScaleV := .of_set fun _ _ => rfl
theorem execScaleP_acts : ActsInDecoder execScaleP := .of_set fun _ _ => rfl
theorem execPf_acts : ActsInDecoder execPf := .of_set fun _ _ => rfl
theorem returnOk_acts : ActsInDecoder fun s => .next (returnOk s) := .of_set fun _ _ => rfl

theorem execEmit_acts : ActsInDecoder execEmit := fun s =>
  ⟨s.dec, deliveriesIn (deliveryOrder (Config.emitOrder s.choices)) s.sinkPresent s.dec, s.choices + 1,
    fun _ => rfl⟩

/-- DECODE acts in the decoder: each of its micro-steps does, and so does its return (R57). -/
theorem execDecode_acts : ActsInDecoder execDecode := by
  have hcheck : ActsInDecoder fun s => execCheckStruct (s.handFrame s.dec.frame) := fun s =>
    execCheckStruct_acts (s.handFrame s.dec.frame)
  exact hcheck
    |>.unlessEnded execChecksum_acts
    |>.unlessEnded execExtractI_acts
    |>.unlessEnded execExtractV_acts
    |>.unlessEnded execExtractP_acts
    |>.unlessEnded execScaleI_acts
    |>.unlessEnded execScaleV_acts
    |>.unlessEnded execScaleP_acts
    |>.unlessEnded execPf_acts
    |>.unlessEnded execEmit_acts
    |>.unlessEnded returnOk_acts

/-- Every operation of the decoder acts in the decoder alone (R10, R43). -/
theorem exec_decoderOps_acts {i : Instr} (hi : i ∈ decoderOps) : ActsInDecoder (exec i) := by
  simp only [decoderOps, List.mem_cons, List.not_mem_nil, or_false] at hi
  obtain rfl | rfl | rfl | rfl | rfl | rfl | rfl | rfl | rfl | rfl | rfl := hi
  · exact execDecode_acts
  · exact execCheckStruct_acts
  · exact execChecksum_acts
  · exact execExtractI_acts
  · exact execExtractV_acts
  · exact execExtractP_acts
  · exact execScaleI_acts
  · exact execScaleV_acts
  · exact execScaleP_acts
  · exact execPf_acts
  · exact execEmit_acts

/-! ### The kinds of step -/

/-- Everything a step that answers can be: no line is left, the environment acts, or it is a host command, a
byte step or an operation of the decoder (R5, R46). -/
theorem step_kinds {s t : State} (h : step s = .next t) :
    t = s ∨ fetch s = .environment t ∨
      (∃ c rest i, s.host = .cmd c :: rest ∧ decode (.cmd c) = .ok i ∧
        exec i { s with host := rest } = .next t) ∨
      (∃ rest, syncStep { s with host := rest } = .next t) ∨
      (∃ rest i, i ∈ decoderOps ∧ exec i { s with host := rest } = .next t) := by
  obtain ⟨-, rfl⟩ | henv | ⟨sel, u, i, hfetch, -, hd, hx⟩ := step_cases h
  · exact .inl rfl
  · exact .inr (.inl henv)
  · obtain ⟨c, rest, hhost, rfl, rfl⟩ | ⟨byte, bytes, rest, -, hsrc, rfl, rfl⟩ |
      ⟨rest, -, rfl, rfl⟩ | ⟨c, rest, -, rfl, rfl⟩ := fetch_operation_cases hfetch
    · exact .inr (.inr (.inl ⟨c, rest, i, hhost, hd, hx⟩))
    · refine .inr (.inr (.inr (.inl ⟨rest, ?_⟩)))
      rw [syncStep_eq_exec (s := { s with host := rest }) hsrc, Except.ok.inj hd]
      exact hx
    · exact .inr (.inr (.inr (.inr ⟨rest, i, decode_call_mem hd, hx⟩)))
    · exact .inr (.inr (.inr (.inr ⟨rest, i, decode_ustep_mem hd, hx⟩)))

/-! ### Outputs only grow (R29, R30) -/

theorem ActsInDecoder.trace_prefix {f : State → Outcome} (hf : ActsInDecoder f) {s t : State}
    (h : f s = .next t) : s.trace <+: t.trace := by
  obtain ⟨d, new, n, hf⟩ := hf s
  obtain rfl : s.decoded d new n = t := by simpa [h] using (hf s.src).symm
  exact List.prefix_append ..

theorem emitResult_trace_prefix (s : State) : s.trace <+: s.emitResult.trace := by
  unfold State.emitResult
  split
  · exact List.prefix_append ..
  · exact List.prefix_rfl

/-- The environment's own actions are no outputs (R17). -/
theorem fetch_environment_trace {s t : State} (h : fetch s = .environment t) : t.trace = s.trace := by
  obtain ⟨_, _, -, rfl⟩ | ⟨_, _, _, -, rfl⟩ | ⟨_, -, -, rfl⟩ | ⟨_, _, -, rfl⟩ :=
    fetch_environment_cases h
  all_goals rfl

/-- A byte step only appends outputs: those of DECODE, then the result, if the byte completes a frame. -/
theorem syncStep_trace_prefix {s t : State} (h : syncStep s = .next t) : s.trace <+: t.trace := by
  obtain ⟨byte, bytes, -, ⟨-, -, rfl⟩ | ⟨-, -, rfl⟩ | ⟨-, hc⟩⟩ := syncStep_cases h
  · exact List.prefix_rfl
  · exact List.prefix_rfl
  · obtain ⟨F, u, -, hu, rfl⟩ := execRxComplete_cases hc
    have hdecode := execDecode_acts.trace_prefix hu
    exact hdecode.trans (emitResult_trace_prefix u)

theorem exec_command_trace_prefix {c : Cmd} {i : Instr} {s t : State} (hd : decode (.cmd c) = .ok i)
    (h : exec i s = .next t) : s.trace <+: t.trace := by
  obtain ⟨-, rfl⟩ | ⟨-, hdrain⟩ | ⟨-, rfl⟩ | ⟨-, rfl⟩ := exec_command_cases hd h
  · exact List.prefix_rfl
  · exact syncSteps_keep (P := fun u => s.trace <+: u.trace)
      (fun _ _ hu hstep => hu.trans (syncStep_trace_prefix hstep)) List.prefix_rfl hdrain
  · exact List.prefix_append ..
  · exact List.prefix_rfl

/-- Settles O22: the environment's actions are no outputs, and a command, a byte step or an operation of the
decoder only appends to the outputs before it. -/
theorem outputsOnlyGrow : Obligations.OutputsOnlyGrow := by
  intro s t h
  have hprefix : s.trace <+: t.trace := by
    obtain rfl | henv | ⟨c, rest, i, -, hd, hx⟩ | ⟨rest, hsync⟩ | ⟨rest, i, hi, hx⟩ :=
      step_kinds h
    · exact List.prefix_rfl
    · rw [fetch_environment_trace henv]
    · exact exec_command_trace_prefix (s := { s with host := rest }) hd hx
    · exact syncStep_trace_prefix (s := { s with host := rest }) hsync
    · exact (exec_decoderOps_acts hi).trace_prefix (s := { s with host := rest }) hx
  obtain ⟨new, hnew⟩ := hprefix
  exact ⟨new, hnew.symm⟩

/-! ### Only DRAIN reads the source (R28, R74) -/

/-- Where `f` answers, it leaves the byte source and the host's lines, and would do the same to the rest of the
state with any other bytes in the source. -/
def BlindToSource (f : State → Outcome) : Prop :=
  ∀ s t : State, f s = .next t →
    t.src = s.src ∧ t.host = s.host ∧
      ∀ bytes : List Byte, f { s with src := bytes } = .next { t with src := bytes }

theorem ActsInDecoder.blind {f : State → Outcome} (hf : ActsInDecoder f) : BlindToSource f := by
  intro s t h
  obtain ⟨d, new, n, hf⟩ := hf s
  obtain rfl : s.decoded d new n = t := by simpa [h] using (hf s.src).symm
  exact ⟨rfl, rfl, hf⟩

/-- An append whose index and new length do not come from the source. -/
theorem blind_appendByte {i : State → Nat} {len : State → Len} (b : Byte)
    (hi : ∀ (s : State) (bytes : List Byte), i { s with src := bytes } = i s)
    (hlen : ∀ (s : State) (bytes : List Byte), len { s with src := bytes } = len s) :
    BlindToSource fun s => appendByte (i s) b (len s) s := by
  intro s t h
  obtain ⟨hlt, rfl⟩ := appendByte_cases h
  refine ⟨rfl, rfl, fun bytes => ?_⟩
  dsimp only
  rw [hi, hlen, appendByte_next b (len s) _ hlt]

/-- RX_COMPLETE answers when the whole buffer holds values and DECODE of them answers (R51). -/
theorem execRxComplete_next {byte : Byte} {s u : State} {F : List Byte}
    (hread : Memory.readBytes (Memory.write s.buf 22 byte) 0 Config.frameLen = some F)
    (hdecode : execDecode (State.handFrame { s with buf := Memory.write s.buf 22 byte, len := 23 } F) =
      .next u) :
    execRxComplete byte s = .next (endFrame u) := by
  rw [execRxComplete, appendByte_next _ _ _ (by decide), thenDo_next]
  simp only [hread, hdecode, thenDo_next]

theorem endFrame_withSource (s : State) (bytes : List Byte) :
    endFrame { s with src := bytes } = { endFrame s with src := bytes } := by
  cases hr : s.dec.result <;>
    simp [endFrame, State.emitResult, hr, State.clearBuffer, State.emit]

theorem execRxComplete_blind (byte : Byte) : BlindToSource (execRxComplete byte) := by
  intro s t h
  obtain ⟨F, u, hread, hdecode, rfl⟩ := execRxComplete_cases h
  obtain ⟨hsrc, hhost, hother⟩ := execDecode_acts.blind _ _ hdecode
  refine ⟨(endFrame_src u).trans hsrc, (endFrame_host u).trans hhost, fun bytes => ?_⟩
  rw [← endFrame_withSource]
  exact execRxComplete_next hread (hother bytes)

/-- An operation that sets the state's fields from each other, but neither sets nor reads the source. -/
theorem blind_next {φ : State → State}
    (hφ : ∀ (s : State) (bytes : List Byte), φ { s with src := bytes } = { φ s with src := bytes })
    (hsrc : ∀ s, (φ s).src = s.src) (hhost : ∀ s, (φ s).host = s.host) :
    BlindToSource fun s => .next (φ s) := by
  intro s t h
  cases h
  exact ⟨hsrc s, hhost s, fun bytes => congrArg _ (hφ s bytes)⟩

/-- Settles O24: FAULT never answers, RX_COMPLETE decodes the buffer whatever the source holds, the other
operations with no decoder work append, do nothing or set fields other than the source, and the decoder's
operations act in the decoder alone. -/
theorem onlyDrainReadsTheSource : Obligations.OnlyDrainReadsTheSource := by
  intro i s t hne h
  suffices hblind : BlindToSource (exec i) from hblind s t h
  cases i with
  | drain => exact absurd rfl hne
  | fault len byte => exact fun _ _ h => nomatch h
  | rxHeader =>
    exact blind_appendByte (i := fun _ => 0) (len := fun _ => 1) Config.header
      (fun _ _ => rfl) (fun _ _ => rfl)
  | rxFill len byte =>
    exact blind_appendByte (i := fun s => s.len.toNat) (len := fun s => s.len + 1) byte
      (fun _ _ => rfl) (fun _ _ => rfl)
  | rxComplete byte => exact execRxComplete_blind byte
  | rxSkip byte => exact blind_next (fun _ _ => rfl) (fun _ => rfl) (fun _ => rfl)
  | nop => exact blind_next (fun _ _ => rfl) (fun _ => rfl) (fun _ => rfl)
  | poll => exact blind_next (fun _ _ => rfl) (fun _ => rfl) (fun _ => rfl)
  | reset => exact blind_next (fun _ _ => rfl) (fun _ => rfl) (fun _ => rfl)
  | _ => exact (exec_decoderOps_acts (by decide)).blind

/-! ### How the buffer changes (R22) -/

/-- From `s` to `t` the buffer stays as it is, gains one byte at index `len`, or is cleared. -/
def AppendsOrClears (s t : State) : Prop :=
  (t.len = s.len ∧ t.buf = s.buf) ∨
    (∃ byte, t.len.toNat = s.len.toNat + 1 ∧ t.buf = s.buf ++ [(s.len.toNat, byte)]) ∨
    (t.len = 0 ∧ t.buf = [])

/-- A byte step skips, appends at `len`, or completes a frame and clears (R48, R49, R50, R51). -/
theorem syncStep_appendsOrClears {s t : State} (hs : s.Inv) (h : syncStep s = .next t) :
    AppendsOrClears s t := by
  obtain ⟨byte, bytes, -, ⟨-, -, rfl⟩ | ⟨hle, -, rfl⟩ | ⟨-, hc⟩⟩ := syncStep_cases h
  · exact .inl ⟨rfl, rfl⟩
  · obtain ⟨-, hlive, -⟩ := hs
    have hlen : (s.len + 1).toNat = s.len.toNat + 1 := by bv_omega
    exact .inr (.inl ⟨byte, hlen, write_append (live_lt hlive)⟩)
  · obtain ⟨F, u, -, -, rfl⟩ := execRxComplete_cases hc
    exact .inr (.inr ⟨rfl, rfl⟩)

/-- NOP and POLL leave the buffer, and RESET clears it (R75, R79, R93). -/
theorem exec_command_appendsOrClears {c : Cmd} {i : Instr} {s t : State} (hne : c ≠ 0b01)
    (hd : decode (.cmd c) = .ok i) (h : exec i s = .next t) : AppendsOrClears s t := by
  obtain ⟨-, rfl⟩ | ⟨hdrain, -⟩ | ⟨-, rfl⟩ | ⟨-, rfl⟩ := exec_command_cases hd h
  · exact .inl ⟨rfl, rfl⟩
  · exact absurd hdrain hne
  · exact .inl ⟨rfl, rfl⟩
  · exact .inr (.inr ⟨rfl, rfl⟩)

/-- Settles O52: the environment and the decoder leave the buffer, a command other than DRAIN leaves or clears
it, and a byte step does one of the three. -/
theorem bufferChangesByAppendOrClear : Obligations.BufferChangesByAppendOrClear := by
  intro s t hs hne h
  obtain rfl | henv | ⟨c, rest, i, hhost, hd, hx⟩ | ⟨rest, hsync⟩ | ⟨rest, i, hi, hx⟩ :=
    step_kinds h
  · exact .inl ⟨rfl, rfl⟩
  · exact .inl (fetch_environment_buffer henv)
  · have hc : c ≠ 0b01 := by
      rintro rfl
      exact hne (by rw [hhost]; rfl)
    exact exec_command_appendsOrClears (s := { s with host := rest }) hc hd hx
  · exact syncStep_appendsOrClears (s := { s with host := rest }) hs hsync
  · obtain ⟨u, hu, hframe⟩ := exec_decoderOps_within hi { s with host := rest }
    obtain rfl : u = t := by simpa [hu] using hx
    rw [hframe]
    exact .inl ⟨rfl, rfl⟩

end Sys2Proof.Machine
end

section
/-! PROOFS. The three encoding spaces: what each word decodes to, row by row, and that decoding and encoding are
inverse to each other. -/

namespace Sys2Proof.Machine

/-! ### The synchronizer operation map, one row at a time (R40) -/

/-- The row RX_HEADER. -/
theorem decodeKey_header : decodeKey (mkKey 0 Config.header) = .rxHeader := by decide

/-- The row RX_SKIP: `len` 0 and no header. -/
theorem decodeKey_skip {byte : Byte} (h : byte ≠ Config.header) :
    decodeKey (mkKey 0 byte) = .rxSkip byte := by
  simp only [decodeKey, keyLen_mkKey, keyByte_mkKey, if_neg h]
  rfl

/-- The row RX_COMPLETE: `len` 22. -/
theorem decodeKey_complete (byte : Byte) : decodeKey (mkKey 22 byte) = .rxComplete byte := by
  simp [decodeKey]

/-- The row RX_FILL: the lengths in between. -/
theorem decodeKey_fill {len : Len} (byte : Byte) (hpos : 1 ≤ len.toNat) (hle : len.toNat ≤ 21) :
    decodeKey (mkKey len byte) = .rxFill len byte := by
  have hstop : ¬ 23 ≤ len.toNat := by omega
  have h0 : len ≠ 0 := by bv_omega
  have h22 : len.toNat ≠ 22 := by omega
  simp only [decodeKey, keyLen_mkKey, keyByte_mkKey, if_neg hstop, if_neg h0, if_neg h22]

/-- Every length is one that FAULT, RX_HEADER or RX_SKIP, RX_COMPLETE, or RX_FILL takes (R40). -/
theorem len_cases (len : Len) :
    23 ≤ len.toNat ∨ len = 0 ∨ len = 22 ∨ (1 ≤ len.toNat ∧ len.toNat ≤ 21) := by
  bv_omega

/-! ### STEP codes (R43, R45) -/

/-- A STEP code that is accepted is the code of the micro-step it decodes to. -/
theorem encode_of_decodeStepCode {c : StepCode} {i : Instr} (h : decodeStepCode c = .ok i) :
    i.wellFormed = true ∧ encode i = .ustep c := by
  unfold decodeStepCode at h
  split at h
  case h_11 => cases h
  all_goals
    next hc =>
      cases h
      exact ⟨rfl, congrArg Select.ustep (BitVec.eq_of_toNat_eq hc.symm)⟩

/-- The codes 10 to 15 are rejected by name. -/
theorem decode_reservedStep {c : StepCode} (h : 10 ≤ c.toNat) :
    decode (.ustep c) = .error (.reservedStep c) := by
  simp only [decode, decodeStepCode]
  split
  case h_11 => rfl
  all_goals omega

/-- The codes 0 to 9 each have a micro-step. -/
theorem decode_ustep_of_le {c : StepCode} (h : c.toNat ≤ 9) : ∃ i, decode (.ustep c) = .ok i := by
  simp only [decode, decodeStepCode]
  split
  case h_11 =>
    simp only [imp_false] at *
    omega
  all_goals exact ⟨_, rfl⟩

/-! ### Decoding and encoding -/

/-- What a KEY decodes to is well formed and has that KEY as its encoding. -/
theorem encode_decodeKey (k : Key) :
    (decodeKey k).wellFormed = true ∧ encode (decodeKey k) = .key k := by
  rw [← mkKey_fields k]
  generalize keyLen k = len
  generalize keyByte k = byte
  obtain hstop | rfl | rfl | ⟨hpos, hle⟩ := len_cases len
  · rw [Except.ok.inj (decode_key_of_unreachableLen byte hstop)]
    exact ⟨decide_eq_true hstop, rfl⟩
  · by_cases hb : byte = Config.header
    · rw [hb, decodeKey_header]
      exact ⟨rfl, rfl⟩
    · rw [decodeKey_skip hb]
      exact ⟨bne_iff_ne.2 hb, rfl⟩
  · rw [decodeKey_complete]
    exact ⟨rfl, rfl⟩
  · rw [decodeKey_fill byte hpos hle]
    exact ⟨by simp [Instr.wellFormed, hpos, hle], rfl⟩

/-- What a CMD code decodes to is well formed and has that code as its encoding (R41). -/
theorem encode_decodeCmd (c : Cmd) :
    (decodeCmd c).wellFormed = true ∧ encode (decodeCmd c) = .cmd c := by
  revert c
  decide

/-- A well-formed operation comes back from its encoding: a byte operation is the row its operands lie in,
and every other operation has one fixed word. -/
theorem decode_encode {i : Instr} (h : i.wellFormed = true) : decode (encode i) = .ok i := by
  cases i with
  | fault len byte => exact decode_key_of_unreachableLen byte (of_decide_eq_true h)
  | rxSkip byte => exact congrArg Except.ok (decodeKey_skip (bne_iff_ne.1 h))
  | rxComplete byte => exact congrArg Except.ok (decodeKey_complete byte)
  | rxFill len byte =>
    simp only [Instr.wellFormed, Bool.and_eq_true, decide_eq_true_eq] at h
    exact congrArg Except.ok (decodeKey_fill byte h.1 h.2)
  | _ => rfl

/-- Settles O49: one way by the operation, the other by the space its word belongs to. -/
theorem decodeEncodeRoundTrip : Obligations.DecodeEncodeRoundTrip := by
  refine ⟨fun _ => decode_encode, fun w i h => ?_⟩
  cases w with
  | key k =>
    cases h
    exact encode_decodeKey k
  | cmd c =>
    cases h
    exact encode_decodeCmd c
  | ustep c => exact encode_of_decodeStepCode h
  | call =>
    cases h
    exact ⟨rfl, rfl⟩

/-- A step whose word is rejected is refused (R45). -/
theorem step_of_reservedStep {s t : State} {sel : Select} {c : StepCode}
    (hf : fetch s = .operation sel t) (hs : stepFaults sel t = false)
    (hd : decode sel = .error (.reservedStep c)) : step s = .refused (.reservedStep c) := by
  simp [step, hf, hs, hd]

/-- Settles O8: the codes up to 9 decode and those from 10 are rejected, which the step reports. -/
theorem reservedStepCodesAreRefused : Obligations.ReservedStepCodesAreRefused := by
  refine ⟨fun c => ⟨fun ⟨i, hi⟩ => ?_, decode_ustep_of_le⟩, fun s c rest hhost hc => ?_⟩
  · by_contra hc
    rw [decode_reservedStep (by omega)] at hi
    cases hi
  · exact step_of_reservedStep (fetch_ustep hhost) (stepFaults_ustep c _) (decode_reservedStep hc)

/-! ### The printed rows (R40) -/

/-- Whether a KEY matches the (match, mask) pair of a row. -/
def matchesRow (k : Key) (r : Key × Key × (Key → Instr)) : Bool := k &&& r.2.1 == r.1

/-- Two KEYs are the same when their fields are. -/
theorem mkKey_inj {len l : Len} {byte b : Byte} : mkKey len byte = mkKey l b ↔ len = l ∧ byte = b := by
  refine ⟨fun h => ⟨?_, ?_⟩, fun ⟨hlen, hbyte⟩ => by rw [hlen, hbyte]⟩
  · simpa using congrArg keyLen h
  · simpa using congrArg keyByte h

/-- Masks act on the two fields of a KEY apart. -/
theorem mkKey_and (len m : Len) (byte n : Byte) :
    mkKey len byte &&& mkKey m n = mkKey (len &&& m) (byte &&& n) := by
  apply BitVec.eq_of_getLsbD_eq
  intro i _
  simp only [mkKey, BitVec.getLsbD_and, BitVec.getLsbD_append]
  split <;> rfl

/-- A KEY matches a row exactly when each of its two fields does. -/
theorem matchesRow_iff (len : Len) (byte : Byte) (r : Key × Key × (Key → Instr)) :
    matchesRow (mkKey len byte) r = true ↔
      len &&& keyLen r.2.1 = keyLen r.1 ∧ byte &&& keyByte r.2.1 = keyByte r.1 := by
  rw [matchesRow, beq_iff_eq, ← mkKey_inj, ← mkKey_and, mkKey_fields, mkKey_fields]

/-- A row whose mask takes every bit matches its one KEY. -/
theorem matchesRow_fullMask (len l : Len) (byte b : Byte) (f : Key → Instr) :
    matchesRow (mkKey len byte) (mkKey l b, 0x1FFF, f) = true ↔ len = l ∧ byte = b := by
  have hlen : len &&& keyLen 0x1FFF = len := BitVec.and_allOnes
  have hbyte : byte &&& keyByte 0x1FFF = byte := BitVec.and_allOnes
  rw [matchesRow_iff, hlen, hbyte, keyLen_mkKey, keyByte_mkKey]

/-- A row whose mask takes the length field matches the KEYs of its one length. -/
theorem matchesRow_lenMask (len l : Len) (byte : Byte) (f : Key → Instr) :
    matchesRow (mkKey len byte) (mkKey l 0, 0x1F00, f) = true ↔ len = l := by
  have hlen : len &&& keyLen 0x1F00 = len := BitVec.and_allOnes
  have hbyte : byte &&& keyByte 0x1F00 = 0 := BitVec.and_zero
  rw [matchesRow_iff, hlen, hbyte, keyLen_mkKey, keyByte_mkKey]
  simp

/-- The six blocks of RX_FILL, the rows of lowest priority. -/
def fillRows : List (Key × Key × (Key → Instr)) := keyRows.drop 3

/-- The map, with the rows of RX_HEADER, RX_SKIP and RX_COMPLETE taken apart into their fields. -/
theorem keyRows_eq : keyRows =
    (mkKey 0 Config.header, 0x1FFF, fun _ => .rxHeader) ::
      (mkKey 0 0, 0x1F00, fun k => .rxSkip (keyByte k)) ::
      (mkKey 22 0, 0x1F00, fun k => .rxComplete (keyByte k)) :: fillRows := rfl

/-- Every row of `fillRows` selects RX_FILL. -/
theorem fillRows_op {r : Key × Key × (Key → Instr)} (h : r ∈ fillRows) (len : Len) (byte : Byte) :
    r.2.2 (mkKey len byte) = .rxFill len byte := by
  have hop : r.2.2 = fun k => .rxFill (keyLen k) (keyByte k) := by
    simp only [fillRows, keyRows, List.drop, List.mem_cons, List.not_mem_nil, or_false] at h
    obtain rfl | rfl | rfl | rfl | rfl | rfl := h
    all_goals rfl
  simp [hop]

/-- The six blocks cover the lengths 1 to 21 and leave the byte free. -/
theorem fillRows_cover (len : Len) (hpos : 1 ≤ len.toNat) (hle : len.toNat ≤ 21) :
    ∃ r ∈ fillRows, len &&& keyLen r.2.1 = keyLen r.1 ∧ keyByte r.2.1 = 0 ∧ keyByte r.1 = 0 := by
  revert len
  decide

/-- The first block that matches a KEY of RX_FILL. -/
theorem find_fillRows {len : Len} (byte : Byte) (hpos : 1 ≤ len.toNat) (hle : len.toNat ≤ 21) :
    ∃ r ∈ fillRows, fillRows.find? (matchesRow (mkKey len byte)) = some r := by
  obtain ⟨q, hq, hlen, hmask, hbyte⟩ := fillRows_cover len hpos hle
  have hmatch : matchesRow (mkKey len byte) q = true :=
    (matchesRow_iff len byte q).2 ⟨hlen, by simp [hmask, hbyte]⟩
  obtain ⟨r, hr⟩ := Option.isSome_iff_exists.1 (List.find?_isSome.2 ⟨q, hq, hmatch⟩)
  exact ⟨r, List.mem_of_find?_eq_some hr, hr⟩

/-- A KEY with `len` not 0 matches neither RX_HEADER's row nor RX_SKIP's. -/
theorem find_keyRows_of_len_ne_zero {len : Len} (byte : Byte) (h : len ≠ 0) :
    keyRows.find? (matchesRow (mkKey len byte)) =
      ((mkKey 22 0, 0x1F00, fun k => .rxComplete (keyByte k)) :: fillRows).find?
        (matchesRow (mkKey len byte)) := by
  rw [keyRows_eq, List.find?_cons_of_neg fun hm => h ((matchesRow_fullMask ..).1 hm).1,
    List.find?_cons_of_neg fun hm => h ((matchesRow_lenMask ..).1 hm)]

/-- Below FAULT the decoder takes the first row that matches. -/
theorem decodeKey_first_row {len : Len} (byte : Byte) (h : len.toNat < 23) :
    ∃ r, keyRows.find? (matchesRow (mkKey len byte)) = some r ∧
      decodeKey (mkKey len byte) = r.2.2 (mkKey len byte) := by
  obtain hstop | rfl | rfl | ⟨hpos, hle⟩ := len_cases len
  · omega
  · rw [keyRows_eq]
    by_cases hb : byte = Config.header
    · rw [hb, decodeKey_header]
      exact ⟨_, List.find?_cons_of_pos ((matchesRow_fullMask ..).2 ⟨rfl, rfl⟩), rfl⟩
    · rw [decodeKey_skip hb,
        List.find?_cons_of_neg fun hm => hb ((matchesRow_fullMask ..).1 hm).2]
      exact ⟨_, List.find?_cons_of_pos ((matchesRow_lenMask ..).2 rfl), by simp⟩
  · rw [find_keyRows_of_len_ne_zero byte (by decide), decodeKey_complete]
    exact ⟨_, List.find?_cons_of_pos ((matchesRow_lenMask ..).2 rfl), by simp⟩
  · have h0 : len ≠ 0 := by bv_omega
    have h22 : len ≠ 22 := by bv_omega
    obtain ⟨r, hr, hfind⟩ := find_fillRows byte hpos hle
    rw [find_keyRows_of_len_ne_zero byte h0, decodeKey_fill byte hpos hle,
      List.find?_cons_of_neg fun hm => h22 ((matchesRow_lenMask ..).1 hm)]
    exact ⟨r, hfind, (fillRows_op hr len byte).symm⟩

/-- Settles O48: FAULT takes the lengths from 23, and below them the decoder takes the first row that matches. -/
theorem keyMapFollowsTheRows : Obligations.KeyMapFollowsTheRows := by
  intro k
  rw [← mkKey_fields k]
  generalize keyLen k = len
  generalize keyByte k = byte
  rw [keyLen_mkKey, keyByte_mkKey]
  refine ⟨decode_key_of_unreachableLen byte, fun h => ?_⟩
  obtain ⟨r, hfind, hdecode⟩ := decodeKey_first_row byte h
  exact ⟨r, hfind, congrArg Except.ok hdecode⟩

/-- Settles O50: a KEY is split into its fields, which select the row; the other codes are looked up. -/
theorem writtenOutWordsDecode : Obligations.WrittenOutWordsDecode :=
  ⟨congrArg Except.ok decodeKey_header, congrArg Except.ok (decodeKey_skip (byte := 0) (by decide)),
    congrArg Except.ok (decodeKey_fill (len := 5) 0x55 (by decide) (by decide)),
    congrArg Except.ok (decodeKey_complete 0x52),
    decode_key_of_unreachableLen (len := 23) 0 (by decide), rfl, rfl⟩

end Sys2Proof.Machine
end

section
/-! PROOFS. What DECODE answers for a frame of the right shape, and with it what RX_COMPLETE outputs. -/

namespace Sys2Proof.Machine

/-! ### The checks (R58, R59) -/

/-- The complement of the 8-bit sum is the checksum that R37 asks for. -/
theorem checksumCalc_eq {F : List Byte} (h : 22 ≤ F.length) : checksumCalc F = expectedChecksum F := by
  apply BitVec.eq_of_toNat_eq
  rw [checksumCalc_eq_sum h, BitVec.toNat_not, BitVec.toNat_add, byteSum_toNat, expectedChecksum,
    BitVec.toNat_ofNat, wideSum]
  generalize ((F.take 22).map BitVec.toNat).sum = n
  have hseed : (88 : Byte).toNat = 88 := rfl
  omega

/-- CHECK_STRUCT passes a frame of the right shape. -/
theorem execCheckStruct_of_shaped {s : State} (h : shapedFrame s.dec.frame) :
    execCheckStruct s = .next s := by
  rw [execCheckStruct, structureOk_eq, if_pos (decide_eq_true h)]

/-- CHECKSUM of a frame of the right shape, in the terms of the rules. -/
theorem execChecksum_of_shaped {s : State} (h : shapedFrame s.dec.frame) :
    execChecksum s =
      let ck := expectedChecksum s.dec.frame
      let rx := s.dec.frame.getD 22 0
      let t : State := { s with dec := { s.dec with ckCalc := ck } }
      if ck = rx then .next t else .next (raiseError (.checksumMismatch ck rx) t) := by
  obtain ⟨hlen, -⟩ := h
  rw [execChecksum, checksumCalc_eq (by omega), frameByte_of_lt (by simp [hlen])]

/-- CHECKSUM passes a good frame. -/
theorem execChecksum_of_good {s : State} (h : goodFrame s.dec.frame) :
    execChecksum s =
      .next { s with dec := { s.dec with ckCalc := expectedChecksum s.dec.frame } } := by
  obtain ⟨hshape, hck⟩ := h
  rw [execChecksum_of_shaped hshape]
  exact if_pos hck.symm

/-- The error of a frame whose checksum byte is not the computed one. -/
def mismatchOf (F : List Byte) : FrameError :=
  .checksumMismatch (expectedChecksum F) (F.getD 22 0)

/-- CHECKSUM raises the mismatch of the computed and the received byte. -/
theorem execChecksum_of_mismatch {s : State} (h : shapedFrame s.dec.frame)
    (hck : s.dec.frame.getD 22 0 ≠ expectedChecksum s.dec.frame) :
    execChecksum s = .next (raiseError (mismatchOf s.dec.frame)
      { s with dec := { s.dec with ckCalc := expectedChecksum s.dec.frame } }) := by
  rw [execChecksum_of_shaped h]
  exact if_neg hck.symm

/-! ### Deliveries (R71) -/

/-- Every order EMIT can take delivers the same values. -/
theorem deliveryOrder_perm (k : Fin 24) : (deliveryOrder k).Perm quantities := by
  revert k
  decide

/-- The deliveries in an order, one quantity at a time. -/
theorem deliveriesIn_cons (q : Quantity) (order : List Quantity) (sinks : BitVec 4) (d : Decoder) :
    deliveriesIn (q :: order) sinks d =
      (if sinkOn sinks q then [.deliver q (d.value q)] else []) ++ deliveriesIn order sinks d := by
  by_cases h : sinkOn sinks q <;> simp [deliveriesIn, h]

/-- In the order R71 lists the quantities, the deliveries are those to the sinks that are present. -/
theorem deliveriesIn_quantities (sinks : BitVec 4) (d : Decoder) :
    deliveriesIn quantities sinks d = presentDeliveries sinks d.outV d.outI d.outP d.outPF := by
  simp only [quantities, deliveriesIn_cons, presentDeliveries, List.append_assoc]
  simp [deliveriesIn, sinkOn, Quantity.bit, Decoder.value]

/-- EMIT delivers to the sinks that are present, in some order. -/
theorem emitted_perm (k : Fin 24) (sinks : BitVec 4) (d : Decoder) :
    (deliveriesIn (deliveryOrder k) sinks d).Perm
      (presentDeliveries sinks d.outV d.outI d.outP d.outPF) := by
  rw [← deliveriesIn_quantities]
  exact deliveriesIn_perm (deliveryOrder_perm k) sinks d

/-! ### DECODE (R57) -/

/-- The decoder's values when EMIT runs, for a frame that has passed both checks. -/
def emitValues (gain : GainMode) (pAltDiv : Nat) (F : List Byte) : Decoder where
  frame := F
  ckCalc := expectedChecksum F
  rawI := signedField F Config.iOff
  rawV := unsignedField F Config.vOff
  rawP := signedField F Config.pOff
  xI := (signedField F Config.iOff : Rat) * kI gain
  xV := (unsignedField F Config.vOff : Rat) * kV
  xP := (signedField F Config.pOff : Rat) * kP pAltDiv gain
  outI := out ((signedField F Config.iOff : Rat) * kI gain)
  outV := out ((unsignedField F Config.vOff : Rat) * kV)
  outP := out ((signedField F Config.pOff : Rat) * kP pAltDiv gain)
  outPF := out (powerFactor ((signedField F Config.iOff : Rat) * kI gain)
    ((unsignedField F Config.vOff : Rat) * kV) ((signedField F Config.pOff : Rat) * kP pAltDiv gain))
  result := none

/-- The record returned from those values is the reading of the rules. -/
theorem readingOf_emitValues (gain : GainMode) (pAltDiv : Nat) {F : List Byte} (h : F.length = 23) :
    readingOf (emitValues gain pAltDiv F) = expectedReading gain pAltDiv F := by
  have hck : frameByte F Config.ckIndex = F.getD 22 0 := frameByte_of_lt (h ▸ by decide)
  have hI : signedField F Config.iOff = sext24 (le24 F 1) := signedField_eq (h ▸ by decide)
  have hV : unsignedField F Config.vOff = le24 F 4 := unsignedField_eq (h ▸ by decide)
  have hP : signedField F Config.pOff = sext24 (le24 F 10) := signedField_eq (h ▸ by decide)
  simp only [readingOf, emitValues, expectedReading, powerFactor, hck, hI, hV, hP]

/-- DECODE of a good frame runs all ten micro-steps and returns OK. -/
theorem execDecode_eq_of_good {s : State} (h : goodFrame s.dec.frame) :
    execDecode s = thenDo
      (execEmit { s with dec := emitValues s.gainMode s.pAltDiv s.dec.frame })
      fun t => .next (returnOk t) := by
  have hcheck := execCheckStruct_of_shaped (s := s.handFrame s.dec.frame) h.1
  have hsum := execChecksum_of_good (s := s.handFrame s.dec.frame) h
  rw [execDecode, hcheck, unlessEnded_running rfl, hsum]
  rfl

/-- What DECODE of a good frame answers: the reading of the rules, and its present deliveries in some order. -/
theorem execDecode_of_good {s : State} (h : goodFrame s.dec.frame) :
    let r := expectedReading s.gainMode s.pAltDiv s.dec.frame
    ∃ t ds, execDecode s = .next t ∧ t.dec.result = some (.ok r) ∧
      ds.Perm (presentDeliveries s.sinkPresent r.v r.i r.p r.pf) ∧ t.trace = s.trace ++ ds ∧
      t = { s with dec := t.dec, trace := t.trace, choices := t.choices } := by
  intro r
  let d := emitValues s.gainMode s.pAltDiv s.dec.frame
  have hr : readingOf d = r := readingOf_emitValues _ _ h.1.1
  have hperm := emitted_perm (Config.emitOrder s.choices) s.sinkPresent d
  rw [execDecode_eq_of_good h, ← hr]
  exact ⟨_, _, rfl, rfl, hperm, rfl, rfl⟩

/-- DECODE of a frame of the right shape with a wrong checksum byte ends at CHECKSUM. -/
theorem execDecode_of_mismatch {s : State} (h : shapedFrame s.dec.frame)
    (hck : s.dec.frame.getD 22 0 ≠ expectedChecksum s.dec.frame) :
    execDecode s = .next (raiseError (mismatchOf s.dec.frame) { s with
      dec := { Decoder.idle with
        frame := s.dec.frame
        ckCalc := expectedChecksum s.dec.frame } }) := by
  have hcheck := execCheckStruct_of_shaped (s := s.handFrame s.dec.frame) h
  have hsum := execChecksum_of_mismatch (s := s.handFrame s.dec.frame) h hck
  rw [execDecode, hcheck, unlessEnded_running rfl, hsum]
  rfl

/-! ### RX_COMPLETE (R51) -/

/-- The frame that a byte completes: the buffer's bytes, then that byte. -/
def completedFrame (s : State) (byte : Byte) : List Byte := s.buf.map Prod.snd ++ [byte]

/-- The state in which RX_COMPLETE starts DECODE: the byte appended, the completed frame handed over. -/
def completing (s : State) (byte : Byte) : State :=
  State.handFrame { s with buf := Memory.write s.buf 22 byte, len := 23 } (completedFrame s byte)

section
variable {s : State} (byte : Byte) (hs : s.Inv) (hlen : s.len = 22)
include hs hlen

theorem length_buf_of_full : s.buf.length = 22 := by
  obtain ⟨-, hlive, -⟩ := hs
  simpa [hlen] using congrArg List.length hlive

/-- The byte that completes a frame is its last, the checksum byte. -/
theorem completedFrame_getD_last : (completedFrame s byte).getD 22 0 = byte := by
  have hbuf := length_buf_of_full hs hlen
  simp [completedFrame, List.getD, hbuf]

/-- A completed frame has the right shape: 23 bytes, of which the first is the header that RX_HEADER
stored (R19). -/
theorem completedFrame_shaped : shapedFrame (completedFrame s byte) := by
  have hbuf := length_buf_of_full hs hlen
  obtain ⟨-, hlive, hheader⟩ := hs
  have hread := hheader (by simp [hlen])
  refine ⟨by simp [completedFrame, hbuf], ?_⟩
  cases hcells : s.buf with
  | nil => simp [hcells] at hbuf
  | cons c m =>
    have h0 : c.1 = 0 := by
      simp only [hcells, hlen, List.map_cons] at hlive
      exact (List.cons.inj hlive).1
    have hc : c.2 = Config.header := by simpa [hcells, Memory.read, h0] using hread
    simp [completedFrame, hcells, hc]

/-- RX_COMPLETE decodes the completed frame and ends it. -/
theorem execRxComplete_of_full {u : State} (hdecode : execDecode (completing s byte) = .next u) :
    exec (.rxComplete byte) s = .next (endFrame u) := by
  obtain ⟨-, hlive, -⟩ := hs
  have hlive : s.buf.map Prod.fst = List.range 22 := by simpa [hlen] using hlive
  have hread : Memory.readBytes (Memory.write s.buf 22 byte) 0 Config.frameLen =
      some (completedFrame s byte) := by
    rw [readBytes_live (live_append byte hlive), write_append (live_lt hlive), List.map_append]
    rfl
  exact execRxComplete_next hread hdecode

end

/-- Settles O21: the byte completes a frame of the right shape, DECODE of it passes or raises at CHECKSUM, and the
end of the frame appends the result to what DECODE emitted. -/
theorem completedFrameOutputs : Obligations.CompletedFrameOutputs := by
  intro byte s hs hlen F r
  have hshape : shapedFrame F := completedFrame_shaped byte hs hlen
  have hlast : F.getD 22 0 = byte := completedFrame_getD_last byte hs hlen
  by_cases hck : F.getD 22 0 = expectedChecksum F
  · obtain ⟨u, ds, hdecode, hresult, hperm, htrace, -⟩ :=
      execDecode_of_good (s := completing s byte) ⟨hshape, hck⟩
    refine ⟨endFrame u, ds, execRxComplete_of_full byte hs hlen hdecode,
      .inl ⟨⟨hshape, hck⟩, hperm, ?_, rfl⟩⟩
    rw [endFrame_trace, emitResult_trace hresult, htrace]
    rfl
  · have hdecode := execDecode_of_mismatch (s := completing s byte) hshape hck
    have herror : mismatchOf F = .checksumMismatch (expectedChecksum F) byte := by rw [mismatchOf, hlast]
    refine ⟨_, [], execRxComplete_of_full byte hs hlen hdecode, .inr ⟨fun h => hck h.2, ?_, rfl⟩⟩
    rw [endFrame_trace, emitResult_trace (r := .error (mismatchOf F)) rfl, raiseError_trace, ← herror]
    exact List.append_assoc ..

end Sys2Proof.Machine
end

section
/-! PROOFS. What one byte does to the synchronizer: RX_SKIP, RX_HEADER, RX_FILL and RX_COMPLETE, and that
none of them sees the bytes that follow or the host's lines. -/

namespace Sys2Proof.Machine

/-! ### RX_SKIP, RX_HEADER, RX_FILL (R48, R49, R50) -/

/-- `s` with one more byte in the buffer. -/
def State.appended (s : State) (byte : Byte) : State :=
  { s with len := s.len + 1, buf := Memory.write s.buf s.len.toNat byte }

/-- RX_HEADER appends the header at index 0 in every state. -/
theorem exec_rxHeader (s : State) :
    exec .rxHeader s = .next { s with len := 1, buf := Memory.write s.buf 0 Config.header } :=
  appendByte_next (i := 0) Config.header 1 s (by decide)

/-- RX_FILL appends its byte at `len`. -/
theorem exec_rxFill (len : Len) (byte : Byte) {s : State} (hle : s.len.toNat ≤ 21) :
    exec (.rxFill len byte) s = .next (s.appended byte) :=
  appendByte_next _ _ _ (show s.len.toNat < 23 by omega)

/-- Settles O9: RX_SKIP answers the state it ran in. -/
theorem rxSkipDiscardsTheByte : Obligations.RxSkipDiscardsTheByte :=
  ⟨fun _ h => congrArg Except.ok (decodeKey_skip h), fun _ _ => rfl⟩

/-- Settles O10: the append of RX_HEADER writes index 0 alone. -/
theorem rxHeaderStartsAFrame : Obligations.RxHeaderStartsAFrame :=
  ⟨congrArg Except.ok decodeKey_header, fun s =>
    ⟨_, exec_rxHeader s, rfl, rfl, read_write_same .., fun _ ha => read_write_of_ne _ _ ha, rfl⟩⟩

/-- Settles O11: the append of RX_FILL writes index `len` alone, and the new length is a legal one. -/
theorem rxFillAppendsAnyByte : Obligations.RxFillAppendsAnyByte := by
  refine ⟨fun len byte hpos hle => congrArg Except.ok (decodeKey_fill byte hpos hle), ?_⟩
  intro len byte s hpos hle
  have hlen : (s.len + 1).toNat = s.len.toNat + 1 := by bv_omega
  have hsync : (s.appended byte).syncState = .filling :=
    syncStateOf_eq_filling (len := s.len + 1) (by omega) (by omega)
  exact ⟨_, exec_rxFill len byte hle, hlen, hsync, read_write_same ..,
    fun _ ha => read_write_of_ne _ _ ha, rfl⟩

/-! ### DECODE sees neither the synchronizer nor the environment (R10, R57) -/

/-- `s` with the buffer, the byte source and the host's lines of `e`. -/
def State.withSurroundings (s e : State) : State :=
  { s with len := e.len, buf := e.buf, src := e.src, host := e.host }

/-- Where DECODE answers `t`, it has changed the decoder's values and the outputs only. -/
theorem execDecode_changesDecoderOnly {s t : State} (h : execDecode s = .next t) :
    ChangesDecoderOnly s t := by
  obtain ⟨u, hu, hframe⟩ := execDecode_within s
  obtain rfl : u = t := by simpa [hu] using h
  exact hframe

/-- DECODE of a list of the wrong shape ends at CHECK_STRUCT. -/
theorem execDecode_of_misshapen {s : State} (h : ¬ shapedFrame s.dec.frame) :
    execDecode s = .next (raiseError .invalidFrame (s.handFrame s.dec.frame)) := by
  have hshape : ¬ structureOk s.dec.frame = true := by rwa [structureOk_eq, decide_eq_true_iff]
  have hcheck : execCheckStruct (s.handFrame s.dec.frame) =
      .next (raiseError .invalidFrame (s.handFrame s.dec.frame)) := if_neg hshape
  rw [execDecode, hcheck]
  rfl

/-- DECODE does the same in any surroundings: it returns at CHECK_STRUCT, at CHECKSUM or after EMIT, and
none of these reads them. -/
theorem execDecode_withSurroundings (s e : State) :
    execDecode (s.withSurroundings e) = thenDo (execDecode s) fun t => .next (t.withSurroundings e) := by
  by_cases hshape : shapedFrame s.dec.frame
  · by_cases hck : s.dec.frame.getD 22 0 = expectedChecksum s.dec.frame
    · rw [execDecode_eq_of_good (s := s.withSurroundings e) ⟨hshape, hck⟩,
        execDecode_eq_of_good ⟨hshape, hck⟩]
      rfl
    · rw [execDecode_of_mismatch (s := s.withSurroundings e) hshape hck,
        execDecode_of_mismatch hshape hck]
      rfl
  · rw [execDecode_of_misshapen (s := s.withSurroundings e) hshape, execDecode_of_misshapen hshape]
    rfl

theorem resultsOf_presentDeliveries (sinks : BitVec 4) (v i p pf : OutVal) :
    resultsOf (presentDeliveries sinks v i p pf) = [] := by
  let d : Decoder := { Decoder.idle with outV := v, outI := i, outP := p, outPF := pf }
  rw [← deliveriesIn_quantities sinks d, resultsOf_deliveriesIn]

/-- DECODE of a frame of the right shape returns a result other than InvalidFrame, and emits no result
event itself. -/
theorem execDecode_of_shaped {s : State} (h : shapedFrame s.dec.frame) :
    ∃ u r new, execDecode s = .next u ∧ u.dec.result = some r ∧ r ≠ .error .invalidFrame ∧
      u.trace = s.trace ++ new ∧ resultsOf new = [] := by
  by_cases hck : s.dec.frame.getD 22 0 = expectedChecksum s.dec.frame
  · obtain ⟨u, ds, hu, hresult, hperm, htrace, -⟩ := execDecode_of_good ⟨h, hck⟩
    have hnone : (resultsOf ds).Perm [] := by
      rw [← resultsOf_presentDeliveries]
      exact hperm.filterMap _
    exact ⟨u, _, ds, hu, hresult, nofun, htrace, hnone.eq_nil⟩
  · exact ⟨_, _, _, execDecode_of_mismatch h hck, rfl, nofun, rfl, rfl⟩

/-! ### RX_COMPLETE (R51) -/

/-- `s` at the end of a frame whose DECODE ended in `u` and returned `r`. -/
def State.completed (s u : State) (r : Result) : State :=
  { s with
    len := 0
    buf := []
    dec := Decoder.idle
    trace := u.trace ++ [.result r]
    choices := u.choices }

/-- RX_COMPLETE of a full buffer: DECODE of the completed frame, its result event, and SEEKING. -/
theorem exec_rxComplete (byte : Byte) {s : State} (hs : s.Inv) (hlen : s.len = 22) :
    ∃ u r new, execDecode (s.handFrame (completedFrame s byte)) = .next u ∧ u.dec.result = some r ∧
      r ≠ .error .invalidFrame ∧ u.trace = s.trace ++ new ∧ resultsOf new = [] ∧
      exec (.rxComplete byte) s = .next (s.completed u r) := by
  let s' := s.handFrame (completedFrame s byte)
  obtain ⟨u, r, new, hu, hresult, hr, htrace, hnew⟩ :=
    execDecode_of_shaped (s := s') (completedFrame_shaped byte hs hlen)
  refine ⟨u, r, new, hu, hresult, hr, htrace, hnew, ?_⟩
  have hdecode : execDecode (completing s byte) = .next (u.withSurroundings (completing s byte)) := by
    have := execDecode_withSurroundings s' (completing s byte)
    rwa [hu] at this
  rw [execRxComplete_of_full byte hs hlen hdecode,
    endFrame_of_result (s := u.withSurroundings (completing s byte)) hresult,
    execDecode_changesDecoderOnly hu]
  rfl

/-- Settles O12: RX_COMPLETE decodes the completed frame, which has the right shape, appends the result to
what DECODE emitted and clears the buffer. -/
theorem rxCompleteDecodesAndClears : Obligations.RxCompleteDecodesAndClears := by
  refine ⟨fun byte => congrArg Except.ok (decodeKey_complete byte), ?_⟩
  intro byte s hs hlen
  obtain ⟨u, r, -, hu, hresult, hr, -, -, ht⟩ := exec_rxComplete byte hs hlen
  exact ⟨s.completed u r, u, r, ht, hu, hresult, hr, syncStateOf_zero, read_nil, rfl⟩

/-! ### The operation a byte selects (R39, R40) -/

/-- The operation that the KEY of `len` and `byte` selects, run in `s`. -/
def takeByte (byte : Byte) (s : State) : Outcome := exec (decodeKey (mkKey s.len byte)) s

theorem takeByte_skip {byte : Byte} {s : State} (h0 : s.len = 0) (hbyte : byte ≠ Config.header) :
    takeByte byte s = .next s := by
  rw [takeByte, h0, decodeKey_skip hbyte]
  rfl

theorem takeByte_header {s : State} (h0 : s.len = 0) :
    takeByte Config.header s = .next (s.appended Config.header) := by
  rw [takeByte, h0, decodeKey_header, exec_rxHeader, State.appended, h0]
  rfl

theorem takeByte_fill {byte : Byte} {s : State} (hpos : 1 ≤ s.len.toNat) (hle : s.len.toNat ≤ 21) :
    takeByte byte s = .next (s.appended byte) := by
  rw [takeByte, decodeKey_fill byte hpos hle, exec_rxFill _ _ hle]

theorem takeByte_complete {byte : Byte} {s : State} (hlen : s.len = 22) :
    takeByte byte s = exec (.rxComplete byte) s := by
  rw [takeByte, hlen, decodeKey_complete]

/-- Under the invariant a byte is skipped in SEEKING, appended, or completes a frame. -/
theorem takeByte_cases (byte : Byte) {s : State} (hs : s.Inv) :
    takeByte byte s = .next s ∨
      (s.len.toNat ≤ 21 ∧ (s.len = 0 → byte = Config.header) ∧
        takeByte byte s = .next (s.appended byte)) ∨
      (s.len = 22 ∧ ∃ u r new, u.trace = s.trace ++ new ∧ resultsOf new = [] ∧
        takeByte byte s = .next (s.completed u r)) := by
  obtain hstop | h0 | h22 | ⟨hpos, hle⟩ := len_cases s.len
  · obtain ⟨hle, -⟩ := hs
    omega
  · by_cases hbyte : byte = Config.header
    · subst hbyte
      exact .inr (.inl ⟨by simp [h0], fun _ => rfl, takeByte_header h0⟩)
    · exact .inl (takeByte_skip h0 hbyte)
  · obtain ⟨u, r, new, -, -, -, htrace, hnew, ht⟩ := exec_rxComplete byte hs h22
    exact .inr (.inr ⟨h22, u, r, new, htrace, hnew, (takeByte_complete h22).trans ht⟩)
  · exact .inr (.inl ⟨hle, fun h0 => by simp [h0] at hpos, takeByte_fill hpos hle⟩)

/-! ### The byte operations do not see the environment (R28, R74) -/

/-- `s` with the bytes that the source holds and the host's lines replaced. -/
def State.withEnvironment (s : State) (bytes : List Byte) (lines : List Line) : State :=
  { s with src := bytes, host := lines }

@[simp] theorem withEnvironment_buf (s : State) (bytes : List Byte) (lines : List Line) :
    (s.withEnvironment bytes lines).buf = s.buf := rfl

theorem handFrame_withEnvironment (s : State) (F bytes : List Byte) (lines : List Line) :
    (s.withEnvironment bytes lines).handFrame F =
      (s.handFrame F).withEnvironment bytes lines := rfl

/-- `f` leaves the source and the host's lines, and its outcome, a stop included, does not depend on
them. -/
def IgnoresEnvironment (f : State → Outcome) : Prop :=
  ∀ (s : State) (bytes : List Byte) (lines : List Line),
    f (s.withEnvironment bytes lines) = thenDo (f s) fun t => .next (t.withEnvironment bytes lines)

theorem appendByte_withEnvironment (i : Nat) (b : Byte) (len : Len) (s : State) (bytes : List Byte)
    (lines : List Line) :
    appendByte i b len (s.withEnvironment bytes lines) =
      thenDo (appendByte i b len s) fun t => .next (t.withEnvironment bytes lines) := by
  by_cases hi : i < Config.frameLen
  · rw [appendByte_next b len _ hi, appendByte_next b len s hi]
    rfl
  · rw [appendByte, appendByte, storeByte_fault b _ hi, storeByte_fault b s hi]
    rfl

theorem execDecode_ignoresEnvironment : IgnoresEnvironment execDecode := by
  intro s bytes lines
  obtain ⟨u, hu, hframe⟩ := execDecode_within s
  have := execDecode_withSurroundings s (s.withEnvironment bytes lines)
  rw [hu, thenDo_next] at this ⊢
  rw [hframe] at this ⊢
  exact this

theorem endFrame_withEnvironment (s : State) (bytes : List Byte) (lines : List Line) :
    endFrame (s.withEnvironment bytes lines) = (endFrame s).withEnvironment bytes lines := by
  cases hr : s.dec.result with
  | none => simp [endFrame, State.emitResult, State.withEnvironment, hr, State.clearBuffer]
  | some r =>
    rw [endFrame_of_result hr, endFrame_of_result (s := s.withEnvironment bytes lines) hr]
    rfl

theorem execRxComplete_ignoresEnvironment (byte : Byte) : IgnoresEnvironment (execRxComplete byte) := by
  intro s bytes lines
  rw [execRxComplete, execRxComplete, appendByte_withEnvironment, thenDo_assoc, thenDo_assoc]
  refine thenDo_congr fun t _ => ?_
  rw [thenDo_next]
  cases hread : Memory.readBytes t.buf 0 Config.frameLen with
  | none => simp only [withEnvironment_buf, hread, thenDo_fault]
  | some F =>
    have hdecode := execDecode_ignoresEnvironment (t.handFrame F) bytes lines
    simp only [withEnvironment_buf, hread, handFrame_withEnvironment, hdecode, thenDo_assoc,
      thenDo_next, endFrame_withEnvironment]

/-- Each row of the operation map ignores the environment (R40). -/
theorem exec_decodeKey_ignoresEnvironment (k : Key) : IgnoresEnvironment (exec (decodeKey k)) := by
  unfold decodeKey
  split_ifs
  · exact fun _ _ _ => rfl
  · exact appendByte_withEnvironment 0 Config.header 1
  · exact fun _ _ _ => rfl
  · exact execRxComplete_ignoresEnvironment _
  · exact fun s => appendByte_withEnvironment s.len.toNat _ (s.len + 1) s

theorem takeByte_ignoresEnvironment (byte : Byte) : IgnoresEnvironment (takeByte byte) := fun s =>
  exec_decodeKey_ignoresEnvironment (mkKey s.len byte) s

end Sys2Proof.Machine
end

section
/-! PROOFS. DRAIN, one byte at a time: it is its byte steps, it completes from the invariant, it may be cut
into chunks, and the bytes after a header are one frame. -/

namespace Sys2Proof.Machine

/-! ### DRAIN by recursion on the source's bytes (R52) -/

theorem execDrain_nil {s : State} (h : s.src = []) : execDrain s = .next s := by
  rw [execDrain, h]
  rfl

/-- DRAIN takes the oldest byte, then as many as were left behind it. -/
theorem execDrain_cons {s : State} {byte : Byte} {bytes : List Byte} (h : s.src = byte :: bytes) :
    execDrain s = thenDo (takeByte byte { s with src := bytes }) (syncSteps bytes.length) := by
  rw [execDrain, h, List.length_cons, syncSteps, syncStep_eq_exec h]
  rfl

/-- DRAIN takes the oldest byte, whatever else the environment holds, then goes on with the rest. -/
theorem execDrain_withEnvironment_cons (s : State) (byte : Byte) (bytes : List Byte)
    (lines : List Line) :
    execDrain (s.withEnvironment (byte :: bytes) lines) =
      thenDo (takeByte byte s) fun t => execDrain (t.withEnvironment bytes lines) := by
  have htake := takeByte_ignoresEnvironment byte s bytes lines
  have hrest : { s.withEnvironment (byte :: bytes) lines with src := bytes } =
    s.withEnvironment bytes lines := rfl
  rw [execDrain_cons rfl, hrest, htake, thenDo_assoc]
  rfl

/-- Settles O13: with no byte counted, no byte step is run. -/
theorem drainOfEmptySourceDoesNothing : Obligations.DrainOfEmptySourceDoesNothing :=
  ⟨rfl, fun _ => execDrain_nil⟩

/-! ### DRAIN as steps of the machine (R47) -/

/-- A byte-step line runs the operation that the source's oldest byte selects. -/
theorem step_byteStep (s : State) (byte : Byte) (bytes : List Byte) (lines : List Line) :
    step (s.withEnvironment (byte :: bytes) (.byteStep :: lines)) =
      thenDo (takeByte byte s) fun t => .next (t.withEnvironment bytes lines) := by
  rw [← takeByte_ignoresEnvironment byte s bytes lines]
  exact step_of_decode_key (fetch_byteStep rfl rfl) rfl rfl

theorem execDrain_eq_runSteps (s : State) (bytes : List Byte) (lines : List Line) :
    execDrain (s.withEnvironment bytes lines) = runSteps bytes.length
      (s.withEnvironment bytes (List.replicate bytes.length .byteStep ++ lines)) := by
  induction bytes generalizing s with
  | nil => rfl
  | cons byte bytes ih =>
    rw [execDrain_withEnvironment_cons, List.length_cons, List.replicate_succ, List.cons_append,
      runSteps, step_byteStep, thenDo_assoc]
    exact thenDo_congr fun t _ => ih t

/-- Settles O15: by induction on the source's bytes, each taken by one byte-step line. -/
theorem drainIsItsByteSteps : Obligations.DrainIsItsByteSteps := fun s =>
  execDrain_eq_runSteps s s.src s.host

/-! ### DRAIN from the invariant (R56) -/

/-- `n` bytes may have taken the synchronizer from `s` to `t`: the invariant holds, only the fields a
byte operation sets have changed, and each new result event has used 23 bytes of those held and
received. -/
structure Received (n : Nat) (s t : State) : Prop where
  inv : t.Inv
  frame : t = { s with len := t.len, buf := t.buf, trace := t.trace, dec := t.dec, choices := t.choices }
  outputs : ∃ new, t.trace = s.trace ++ new ∧
    23 * (resultsOf new).length + t.len.toNat ≤ s.len.toNat + n

theorem Received.src_eq {n : Nat} {s t : State} (h : Received n s t) : t.src = s.src :=
  (congrArg State.src h.frame).trans rfl

theorem Received.host_eq {n : Nat} {s t : State} (h : Received n s t) : t.host = s.host :=
  (congrArg State.host h.frame).trans rfl

theorem Received.trans {m n : Nat} {s t u : State} (h : Received m s t) (h' : Received n t u) :
    Received (m + n) s u where
  inv := h'.inv
  frame := by
    have hu := h'.frame
    rwa [h.frame] at hu
  outputs := by
    obtain ⟨new, hnew, hle⟩ := h.outputs
    obtain ⟨new', hnew', hle'⟩ := h'.outputs
    refine ⟨new ++ new', by rw [hnew', hnew, List.append_assoc], ?_⟩
    rw [resultsOf_append, List.length_append]
    omega

/-- Both states may hold other bytes in the source. -/
theorem Received.withSource {n : Nat} {s t : State} (h : Received n s t) (bytes : List Byte) :
    Received n { s with src := bytes } { t with src := bytes } where
  inv := h.inv
  frame := congrArg (fun u : State => { u with src := bytes }) h.frame
  outputs := h.outputs

/-- Under the invariant a byte is always taken. -/
theorem takeByte_received (byte : Byte) {s : State} (hs : s.Inv) :
    ∃ t, takeByte byte s = .next t ∧ Received 1 s t := by
  obtain ht | ⟨hle, hheader, ht⟩ | ⟨h22, u, r, new, htrace, hnew, ht⟩ := takeByte_cases byte hs
  · exact ⟨s, ht, hs, rfl, [], (List.append_nil _).symm, by simp [resultsOf]⟩
  · have hlen : (s.len + 1).toNat = s.len.toNat + 1 := by bv_omega
    exact ⟨_, ht, inv_of_append hs hle hheader rfl rfl, rfl, [], (List.append_nil _).symm,
      le_of_eq ((Nat.zero_add _).trans hlen)⟩
  · refine ⟨_, ht, inv_of_empty rfl rfl, rfl, new ++ [.result r], ?_, ?_⟩
    · rw [← List.append_assoc, ← htrace]
      rfl
    · rw [resultsOf_append, hnew, h22]
      exact le_rfl

/-- DRAIN from the invariant takes every byte of the source. -/
theorem execDrain_received {s : State} (hs : s.Inv) :
    ∃ t, execDrain s = .next t ∧ Received s.src.length { s with src := [] } t := by
  induction hsrc : s.src generalizing s with
  | nil =>
    refine ⟨s, execDrain_nil hsrc, hs, ?_, [], (List.append_nil _).symm, by simp [resultsOf]⟩
    rw [← hsrc]
  | cons byte bytes ih =>
    obtain ⟨t, ht, hstep⟩ := takeByte_received byte (s := { s with src := bytes }) hs
    have htsrc : t.src = bytes := hstep.src_eq
    obtain ⟨u, hu, hrest⟩ := ih hstep.inv htsrc
    refine ⟨u, by rw [execDrain_cons hsrc, ht, thenDo_next, ← hu, execDrain, htsrc], ?_⟩
    rw [List.length_cons, Nat.add_comm]
    exact (hstep.withSource []).trans hrest

/-- Settles O14: no byte taken under the invariant stops the machine or touches the configuration. -/
theorem drainConsumesEveryCountedByte : Obligations.DrainConsumesEveryCountedByte := by
  intro s hs
  obtain ⟨t, ht, hreceived⟩ := execDrain_received hs
  obtain ⟨new, hnew, -⟩ := hreceived.outputs
  have hsrc : t.src = [] := hreceived.src_eq
  have hframe := hreceived.frame
  rw [← hsrc] at hframe
  exact ⟨t, new, ht, hsrc, hreceived.inv, hnew, hframe⟩

/-- Settles O19: each result event uses 23 of the bytes held at the start and received. -/
theorem completionsAreBounded : Obligations.CompletionsAreBounded := by
  intro s hs
  obtain ⟨t, ht, hreceived⟩ := execDrain_received hs
  obtain ⟨new, hnew, hle⟩ := hreceived.outputs
  obtain ⟨hlen, -⟩ := hreceived.inv
  refine ⟨t, new, ht, hnew, ?_, hlen⟩
  dsimp only at hle
  omega

/-! ### Chunks and junk (R53) -/

/-- One DRAIN of two chunks is a DRAIN of the first, then a DRAIN of the second. -/
theorem execDrain_append (s : State) (a b : List Byte) (lines : List Line) :
    execDrain (s.withEnvironment (a ++ b) lines) =
      thenDo (execDrain (s.withEnvironment a lines)) fun u =>
        execDrain (u.withEnvironment b lines) := by
  induction a generalizing s with
  | nil => rfl
  | cons byte a ih =>
    rw [List.cons_append, execDrain_withEnvironment_cons, execDrain_withEnvironment_cons, thenDo_assoc]
    exact thenDo_congr fun t _ => ih t

/-- In SEEKING, bytes that are no header are skipped one by one. -/
theorem execDrain_junk {s : State} (h0 : s.len = 0) {junk : List Byte}
    (hjunk : ∀ x ∈ junk, x ≠ 0x55) (rest : List Byte) (lines : List Line) :
    execDrain (s.withEnvironment (junk ++ rest) lines) = execDrain (s.withEnvironment rest lines) := by
  induction junk with
  | nil => rfl
  | cons x junk ih =>
    rw [List.forall_mem_cons] at hjunk
    obtain ⟨hx, hjunk⟩ := hjunk
    rw [List.cons_append, execDrain_withEnvironment_cons, takeByte_skip h0 hx, thenDo_next, ih hjunk]

/-- Settles O16: DRAIN of the first chunk completes and leaves the host's lines, so the second one goes on
from there; junk in SEEKING is skipped. -/
theorem drainChunkingInvariance : Obligations.DrainChunkingInvariance := by
  refine ⟨fun s a b hs => ?chunks, fun s junk rest h0 hjunk => execDrain_junk h0 hjunk rest s.host⟩
  case chunks =>
    obtain ⟨u, hu, hreceived⟩ := execDrain_received (s := { s with src := a }) hs
    have hhost : u.host = s.host := hreceived.host_eq
    have happend := execDrain_append s a b s.host
    have ha : execDrain (s.withEnvironment a s.host) = .next u := hu
    rw [ha, thenDo_next, ← hhost] at happend
    refine ⟨u, hu, ?_⟩
    rw [← hhost]
    exact happend.symm

/-! ### The bytes after a header (R50, R54) -/

theorem appended_inv {s : State} (byte : Byte) (hs : s.Inv) (hle : s.len.toNat ≤ 21)
    (hheader : s.len = 0 → byte = Config.header) : (s.appended byte).Inv :=
  inv_of_append hs hle hheader rfl rfl

theorem appended_len_toNat {s : State} (byte : Byte) (hle : s.len.toNat ≤ 21) :
    (s.appended byte).len.toNat = s.len.toNat + 1 := by
  show (s.len + 1).toNat = _
  bv_omega

/-- The buffered bytes, then the one appended. -/
theorem appended_bytes {s : State} (byte : Byte) (hs : s.Inv) :
    (s.appended byte).buf.map Prod.snd = s.buf.map Prod.snd ++ [byte] := by
  obtain ⟨-, hlive, -⟩ := hs
  show (Memory.write s.buf s.len.toNat byte).map Prod.snd = _
  rw [write_append (live_lt hlive), List.map_append]
  rfl

/-- In FILLING, bytes that do not complete the frame are appended in order, and DRAIN goes on with the
rest. -/
theorem execDrain_fill {s : State} {bytes : List Byte} (hs : s.Inv) (hpos : 1 ≤ s.len.toNat)
    (hle : s.len.toNat + bytes.length ≤ 22) :
    ∃ t : State, t.Inv ∧ t.len.toNat = s.len.toNat + bytes.length ∧
      t.buf.map Prod.snd = s.buf.map Prod.snd ++ bytes ∧ t = { s with len := t.len, buf := t.buf } ∧
      ∀ rest lines, execDrain (s.withEnvironment (bytes ++ rest) lines) =
        execDrain (t.withEnvironment rest lines) := by
  induction bytes generalizing s with
  | nil => exact ⟨s, hs, rfl, (List.append_nil _).symm, rfl, fun _ _ => rfl⟩
  | cons byte bytes ih =>
    rw [List.length_cons] at hle
    have hle' : s.len.toNat ≤ 21 := by omega
    have hlen := appended_len_toNat byte hle'
    have hinv := appended_inv byte hs hle' fun h0 => by simp [h0] at hpos
    obtain ⟨t, ht, htlen, htbytes, hframe, hdrain⟩ := ih hinv (by omega) (by omega)
    refine ⟨t, ht, ?_, ?_, hframe, fun rest lines => ?_⟩
    · rw [htlen, hlen, List.length_cons]
      omega
    · rw [htbytes, appended_bytes byte hs, List.append_assoc]
      rfl
    · rw [List.cons_append, execDrain_withEnvironment_cons, takeByte_fill hpos hle', thenDo_next,
        hdrain]

/-- SEEKING under the invariant has an empty buffer. -/
theorem buf_of_seeking {s : State} (hs : s.Inv) (h0 : s.len = 0) : s.buf = [] := by
  obtain ⟨-, hlive, -⟩ := hs
  simpa [h0] using hlive

/-- A header and 21 more bytes in SEEKING fill the buffer. -/
theorem execDrain_fillFromHeader {s : State} {q : List Byte} (hs : s.Inv) (h0 : s.len = 0)
    (hq : q.length = 21) :
    ∃ t : State, t.Inv ∧ t.len = 22 ∧ t.buf.map Prod.snd = 0x55 :: q ∧
      t = { s with len := t.len, buf := t.buf } ∧
      ∀ rest lines, execDrain (s.withEnvironment (0x55 :: (q ++ rest)) lines) =
        execDrain (t.withEnvironment rest lines) := by
  have hle : s.len.toNat ≤ 21 := by simp [h0]
  have hlen : (s.appended Config.header).len.toNat = 1 := by
    rw [appended_len_toNat _ hle, h0]
    rfl
  obtain ⟨t, ht, htlen, htbytes, hframe, hdrain⟩ :=
    execDrain_fill (bytes := q) (appended_inv Config.header hs hle fun _ => rfl) (by omega) (by omega)
  refine ⟨t, ht, ?_, ?_, hframe, fun rest lines => ?_⟩
  · apply BitVec.eq_of_toNat_eq
    rw [htlen, hlen, hq]
    rfl
  · rw [htbytes, appended_bytes _ hs, buf_of_seeking hs h0]
    rfl
  · rw [execDrain_withEnvironment_cons, takeByte_header h0, thenDo_next, hdrain]

/-- Settles O17: the header and 21 of the bytes fill the buffer, the 22nd completes the frame, and its
DECODE, which does not see the buffer, is the one of the frame handed over in SEEKING. -/
theorem acceptedHeaderTakesTwentyTwoBytes : Obligations.AcceptedHeaderTakesTwentyTwoBytes := by
  intro s p rest hs h0 hp
  obtain ⟨q, byte, rfl⟩ : ∃ q byte, p = q ++ [byte] := by
    obtain rfl | h := List.eq_nil_or_concat' p
    · simp at hp
    · exact h
  have hq : q.length = 21 := by simpa using hp
  obtain ⟨t, ht, h22, hbytes, hframe, hfill⟩ := execDrain_fillFromHeader hs h0 hq
  obtain ⟨u, r, -, hu, hresult, -, -, -, hcomplete⟩ := exec_rxComplete byte ht h22
  have hF : completedFrame t byte = 0x55 :: (q ++ [byte]) := by
    rw [completedFrame, hbytes]
    rfl
  rw [hF] at hu
  refine ⟨u.withSurroundings s, r, ?decode, hresult, ?drain⟩
  case decode =>
    have hdecode := execDecode_withSurroundings (t.handFrame (0x55 :: (q ++ [byte]))) s
    rw [hu, hframe] at hdecode
    exact hdecode
  case drain =>
    have hend : (t.completed u r).withEnvironment rest s.host = { s with
        src := rest
        dec := Decoder.idle
        trace := u.trace ++ [.result r]
        choices := u.choices } := by
      rw [hframe]
      simp only [State.completed, State.withEnvironment, h0, buf_of_seeking hs h0]
    rw [List.append_assoc]
    refine (hfill (byte :: rest) s.host).trans ?_
    rw [execDrain_withEnvironment_cons, takeByte_complete h22, hcomplete, thenDo_next, hend]
    rfl

end Sys2Proof.Machine
end

section
/-! PROOFS. The decoder's checks and DECODE: CHECK_STRUCT, CHECKSUM and its sum, what each kind of byte list
gives, the changes of one byte that are detected, and that no decoder operation touches the synchronizer. -/

namespace Sys2Proof.Machine

/-! ### CHECK_STRUCT and CHECKSUM (R58, R59) -/

/-- CHECK_STRUCT raises on a list of the wrong shape. -/
theorem execCheckStruct_of_misshapen {s : State} (h : ¬ shapedFrame s.dec.frame) :
    execCheckStruct s = .next (raiseError .invalidFrame s) := by
  rw [execCheckStruct, structureOk_eq, if_neg (by rwa [decide_eq_true_iff])]

/-- Settles O25: the structural check is the shape of a frame. -/
theorem checkStructTestsLengthThenHeader : Obligations.CheckStructTestsLengthThenHeader :=
  ⟨rfl, fun _ => ⟨execCheckStruct_of_shaped, execCheckStruct_of_misshapen⟩⟩

/-- CHECKSUM of a frame of the right length, whatever its header, in the terms of the rules. -/
theorem execChecksum_of_length {s : State} {rx : Byte} (hlen : s.dec.frame.length = 23)
    (hrx : s.dec.frame[22]? = some rx) :
    execChecksum s =
      let ck := expectedChecksum s.dec.frame
      let t : State := { s with dec := { s.dec with ckCalc := ck } }
      if ck = rx then .next t else .next (raiseError (.checksumMismatch ck rx) t) := by
  have hbyte : frameByte s.dec.frame Config.ckIndex = rx := by simp [frameByte, hrx]
  rw [execChecksum, checksumCalc_eq (by omega), hbyte]

/-- Settles O26: CHECKSUM compares byte 22 with the complement of the sum. -/
theorem checksumComparesTheComplementedSum : Obligations.ChecksumComparesTheComplementedSum := by
  refine ⟨rfl, fun s rx hlen hrx => ⟨fun heq => ?pass, fun hne => ?raise⟩⟩
  case pass =>
    subst heq
    exact (execChecksum_of_length hlen hrx).trans (if_pos rfl)
  case raise => exact (execChecksum_of_length hlen hrx).trans (if_neg hne.symm)

/-! ### The sum and the checksum (R37, R60) -/

/-- The accumulator ends at its seed plus the 8-bit sum of the bytes, in whatever order it adds them. -/
theorem accumulate_perm {F : List Byte} (h : 22 ≤ F.length) {order : List Nat}
    (horder : order.Perm (List.range 22)) :
    order.foldl (fun acc i => acc + frameByte F i) Config.ckSeed =
      Config.ckSeed + (F.take 22).sum := by
  rw [foldl_add_eq, (horder.map (frameByte F)).sum_eq, map_frameByte_range h]

theorem checksumSum_eq {F : List Byte} (h : 22 ≤ F.length) :
    checksumSum F = Config.ckSeed + (F.take 22).sum := accumulate_perm h (.refl _)

/-- Settles O27: the 8-bit sum is the wide one mod 256, and no order of a sum matters. -/
theorem accumulatorLaw : Obligations.AccumulatorLaw := by
  intro F hlen
  have h : 22 ≤ F.length := by omega
  refine ⟨?wide, fun order horder => ?anyOrder⟩
  case wide =>
    rw [checksumSum_eq h, BitVec.toNat_add, byteSum_toNat, wideSum, Nat.add_mod_mod]
    rfl
  case anyOrder => exact (accumulate_perm h horder).trans (checksumSum_eq h).symm

theorem expectedChecksum_eq_sum {F : List Byte} (h : 22 ≤ F.length) :
    expectedChecksum F = ~~~ (88 + (F.take 22).sum) :=
  (checksumCalc_eq h).symm.trans (checksumCalc_eq_sum h)

/-- Replacing one summed byte moves the checksum by the difference of the two bytes. -/
theorem expectedChecksum_set {F : List Byte} {i : Nat} (b : Byte) (h : 22 ≤ F.length) (hi : i < 22) :
    expectedChecksum (F.set i b) = expectedChecksum F + F.getD i 0 - b := by
  have hget : (F.take 22).getD i 0 = F.getD i 0 := by simp [List.getD, hi]
  rw [expectedChecksum_eq_sum (by simpa using h), expectedChecksum_eq_sum h, List.take_set,
    byteSum_set b (by simp; omega), hget]
  bv_omega

/-- The checksum byte itself is not summed. -/
theorem expectedChecksum_set_last (F : List Byte) (b : Byte) :
    expectedChecksum (F.set 22 b) = expectedChecksum F := by
  have htake : (F.set 22 b).take 22 = F.take 22 := by
    rw [List.take_set, List.set_eq_of_length_le (List.length_take_le 22 F)]
  rw [expectedChecksum, wideSum, htake]
  rfl

/-! ### DECODE (R57) -/

/-- Settles O29: a good frame passes both checks, so every micro-step runs. -/
theorem decodeOfGoodFrame : Obligations.DecodeOfGoodFrame := fun _ h => execDecode_of_good h

/-- Settles O30: DECODE of a misshapen list ends at CHECK_STRUCT, before its checksum is read. -/
theorem decodeOfMisshapenList : Obligations.DecodeOfMisshapenList := fun _ h =>
  ⟨_, execDecode_of_misshapen h, rfl, rfl⟩

/-- Settles O31: DECODE of a shaped frame with a wrong checksum byte ends at CHECKSUM. -/
theorem decodeOfMismatchedChecksum : Obligations.DecodeOfMismatchedChecksum := fun _ h hck =>
  ⟨_, execDecode_of_mismatch h hck, rfl, rfl⟩

/-- Settles O46: every operation of the decoder answers within the decoder. -/
theorem decoderOperationsLeaveTheSynchronizerAlone :
    Obligations.DecoderOperationsLeaveTheSynchronizerAlone := by
  intro i hi s
  obtain ⟨t, ht, hframe⟩ := exec_decoderOps_within hi s
  have hbuf : t.buf = s.buf := by rw [hframe]
  exact ⟨t, ht, fun a => by rw [hbuf], hframe⟩

/-! ### Changes of a good frame (R61) -/

theorem getD_set_same {F : List Byte} {i : Nat} (b : Byte) (h : i < F.length) :
    (F.set i b).getD i 0 = b := by
  simp [List.getD, h]

theorem getD_set_of_ne (F : List Byte) {i j : Nat} (b : Byte) (h : i ≠ j) :
    (F.set i b).getD j 0 = F.getD j 0 := by
  simp [List.getD, h]

/-- A change past the header keeps a frame's shape. -/
theorem shapedFrame_set {F : List Byte} {i : Nat} (b : Byte) (hF : shapedFrame F) (hi : 1 ≤ i) :
    shapedFrame (F.set i b) := by
  obtain ⟨hlen, hheader⟩ := hF
  exact ⟨by rw [List.length_set, hlen], by rw [getD_set_of_ne F b (by omega), hheader]⟩

/-- A change of the header leaves no frame of the right shape. -/
theorem not_shapedFrame_set_header {F : List Byte} {b : Byte} (hF : shapedFrame F)
    (hb : b ≠ F.getD 0 0) : ¬ shapedFrame (F.set 0 b) := by
  obtain ⟨hlen, hheader⟩ := hF
  rintro ⟨-, hb'⟩
  rw [getD_set_same b (by omega)] at hb'
  exact hb (hb'.trans hheader.symm)

/-- A change of one byte past the header, the checksum byte or a summed one, is a mismatch: it moves the
received checksum or the computed one, and not both. -/
theorem checksum_ne_of_set {F : List Byte} {i : Nat} {b : Byte} (hF : goodFrame F) (hi : i ≤ 22)
    (hb : b ≠ F.getD i 0) : (F.set i b).getD 22 0 ≠ expectedChecksum (F.set i b) := by
  obtain ⟨⟨hlen, -⟩, hck⟩ := hF
  obtain rfl | hsummed : i = 22 ∨ i < 22 := by omega
  · rwa [getD_set_same b (by omega), expectedChecksum_set_last, ← hck]
  · rw [getD_set_of_ne F b (by omega), expectedChecksum_set b (by omega) hsummed, hck]
    bv_omega

/-- A frame stays good when one summed byte past the header goes one up and another one down. -/
theorem goodFrame_set_cancelling {F : List Byte} {i j : Nat} (hF : goodFrame F) (hi : 1 ≤ i)
    (hi' : i < 22) (hj : 1 ≤ j) (hj' : j < 22) (hij : i ≠ j) :
    goodFrame ((F.set i (F.getD i 0 + 1)).set j (F.getD j 0 - 1)) := by
  obtain ⟨hshape, hck⟩ := hF
  have hlen := hshape.1
  refine ⟨shapedFrame_set _ (shapedFrame_set _ hshape hi) hj, ?_⟩
  rw [getD_set_of_ne _ _ (by omega), getD_set_of_ne _ _ (by omega),
    expectedChecksum_set _ (by rw [List.length_set]; omega) hj', expectedChecksum_set _ (by omega) hi',
    getD_set_of_ne _ _ hij, hck]
  bv_omega

/-- Settles O28: a new header is a wrong shape, another new byte a wrong checksum, and the changes of bytes
7 and 8 cancel in the sum. -/
theorem singleByteChangesAreDetected : Obligations.SingleByteChangesAreDetected := by
  intro s F hF
  refine ⟨fun b hb => ?header, fun i b hi hi' hb => ?other, ?cancelling⟩
  case header =>
    exact ⟨_, execDecode_of_misshapen (s := s.handFrame (F.set 0 b))
      (not_shapedFrame_set_header hF.1 hb), rfl⟩
  case other =>
    exact ⟨_, _, _, execDecode_of_mismatch (s := s.handFrame (F.set i b))
      (shapedFrame_set b hF.1 hi) (checksum_ne_of_set hF hi' hb), rfl⟩
  case cancelling =>
    have hgood := goodFrame_set_cancelling hF (i := 7) (j := 8) (by decide) (by decide) (by decide)
      (by decide) (by decide)
    obtain ⟨t, -, ht, hresult, -⟩ := execDecode_of_good (s := s.handFrame _) hgood
    exact ⟨t, _, ht, hresult⟩

end Sys2Proof.Machine
end

section
/-! PROOFS. The values of a decode, field by field and quantity by quantity: the sign and the range of a raw field,
the scale constants, what OUT keeps of a number, and the power factor of the raw values. -/

namespace Sys2Proof.Machine

/-! ### Signed fields (R35) -/

/-- `sext_24` is negative exactly where bit 23 is set. -/
theorem sext24_neg_iff {u : Nat} (h : u < 16777216) : sext24 u < 0 ↔ 8388608 ≤ u := by
  unfold sext24
  split <;> omega

/-- Bit 7 of its highest byte decides the sign of a signed field (R73). -/
theorem signedField_neg_iff {F : List Byte} {o : Nat} (h : o + 2 < F.length) :
    signedField F o < 0 ↔ 128 ≤ byteAt F (o + 2) := by
  rw [signedField_eq h, sext24_neg_iff (le24_lt F o), le24_top]

theorem abs_signedField_le {F : List Byte} {o : Nat} (h : o + 2 < F.length) :
    |(signedField F o : Rat)| ≤ 8388608 := by
  obtain ⟨hlo, hhi⟩ := sext24_range (le24_lt F o)
  have habs : |signedField F o| ≤ 8388608 := by
    rw [signedField_eq h, abs_le]
    omega
  exact_mod_cast habs

/-- A bound on `K` times the largest magnitude of a signed field bounds the scaled field (R72). -/
theorem abs_signedField_mul_lt {F : List Byte} {o : Nat} {k bound : Rat} (h : o + 2 < F.length)
    (hk : 0 < k) (hbound : 8388608 * k < bound) : |(signedField F o : Rat) * k| < bound := by
  calc |(signedField F o : Rat) * k| = |(signedField F o : Rat)| * k := by
        rw [abs_mul, abs_of_pos hk]
    _ ≤ 8388608 * k := mul_le_mul_of_nonneg_right (abs_signedField_le h) hk.le
    _ < bound := hbound

/-! ### The scale constants (R65) -/

theorem kI_std : kI .std = 609 / 152989000 := by norm_num [kI]

theorem kI_alt : kI .alt = 203 / 152989000 := by norm_num [kI]

theorem kV_eq : kV = 13198451 / 209635500000 := by norm_num [kV]

theorem kP_std (d : Nat) : kP d .std = 2679285553 / 1670250000000 := by norm_num [kP]

theorem kP_alt_default : kP Config.pAltDivDefault .alt = 72340709931 / 12790250000000 := by
  norm_num [kP]

/-- The constant of the power factor under STD (R70). -/
theorem kP_std_div (d : Nat) : kP d .std / (kI .std * kV) = 2515445138 / 393 := by
  norm_num [kP_std, kI_std, kV_eq]

/-! ### OUT (R69) -/

theorem out_zero : out 0 = .zero Config.outZeroNegative := if_pos rfl

/-- OUT multiplies by a positive factor, so it keeps the sign. -/
theorem out_toRat_eq_mul_pos (x : Rat) : ∃ c, 0 < c ∧ (out x).toRat = x * c := by
  obtain ⟨e, hlo, -, hx⟩ := out_toRat x
  refine ⟨1 + e, ?_, hx⟩
  norm_num [Config.relTol] at hlo
  linarith

theorem out_toRat_pos_iff (x : Rat) : 0 < (out x).toRat ↔ 0 < x := by
  obtain ⟨c, hc, hx⟩ := out_toRat_eq_mul_pos x
  rw [hx, mul_pos_iff_of_pos_right hc]

theorem out_toRat_nonneg_iff (x : Rat) : 0 ≤ (out x).toRat ↔ 0 ≤ x := by
  obtain ⟨c, hc, hx⟩ := out_toRat_eq_mul_pos x
  rw [hx, mul_nonneg_iff_of_pos_right hc]

theorem out_toRat_neg_iff (x : Rat) : (out x).toRat < 0 ↔ x < 0 := by
  rw [← not_le, out_toRat_nonneg_iff, not_le]

theorem out_toRat_eq_zero_iff (x : Rat) : (out x).toRat = 0 ↔ x = 0 := by
  obtain ⟨c, hc, hx⟩ := out_toRat_eq_mul_pos x
  rw [hx, mul_eq_zero_iff_right hc.ne']

/-- OUT is within `REL_TOL` of its exact value. -/
theorem abs_out_toRat_sub_le (x : Rat) : |(out x).toRat - x| ≤ Config.relTol * |x| := by
  obtain ⟨e, hlo, hhi, hx⟩ := out_toRat x
  calc |(out x).toRat - x| = |e| * |x| := by rw [hx, ← abs_mul]; ring_nf
    _ ≤ Config.relTol * |x| := mul_le_mul_of_nonneg_right (abs_le.2 ⟨hlo, hhi⟩) (abs_nonneg x)

/-! ### Scaled values -/

/-- Bit 7 of its highest byte decides the sign of a scaled field and of its output. -/
theorem scaled_signedField_sign {F : List Byte} {o : Nat} {k : Rat} (h : o + 2 < F.length)
    (hk : 0 < k) :
    let x := (signedField F o : Rat) * k
    (128 ≤ byteAt F (o + 2) → x < 0 ∧ (out x).toRat < 0) ∧
      (byteAt F (o + 2) < 128 → 0 ≤ x ∧ 0 ≤ (out x).toRat) := by
  intro x
  have hx : x < 0 ↔ 128 ≤ byteAt F (o + 2) := by
    rw [← not_le, mul_nonneg_iff_of_pos_right hk, Int.cast_nonneg_iff, not_le, signedField_neg_iff h]
  rw [out_toRat_neg_iff, out_toRat_nonneg_iff, ← not_lt (a := x), hx]
  exact ⟨fun hset => ⟨hset, hset⟩, fun hclear => ⟨hclear.not_ge, hclear.not_ge⟩⟩

/-- No scale constant is zero, so the exact product is zero exactly where a raw value is (R70). -/
theorem scaled_product_eq_zero_iff (rawI : Int) (rawV : Nat) (g : GainMode) :
    (rawI : Rat) * kI g * ((rawV : Rat) * kV) = 0 ↔ rawI = 0 ∨ rawV = 0 := by
  simp [(kI_pos g).ne', kV_pos.ne']

theorem powerFactor_of_ne_zero {xI xV : Rat} (xP : Rat) (h : xI * xV ≠ 0) :
    powerFactor xI xV xP = xP / (xI * xV) := if_pos h

theorem powerFactor_of_eq_zero {xI xV : Rat} (xP : Rat) (h : xI * xV = 0) :
    powerFactor xI xV xP = 0 := if_neg (not_not.2 h)

/-- Under STD the three constants combine into one, which does not depend on `P_ALT_DIV` (R70). -/
theorem scaled_quotient_std (rawI rawP : Int) (rawV d : Nat) :
    (rawP : Rat) * kP d .std / ((rawI : Rat) * kI .std * ((rawV : Rat) * kV)) =
      (rawP : Rat) / ((rawI : Rat) * (rawV : Rat)) * (2515445138 / 393) := by
  rw [mul_mul_mul_comm, mul_div_mul_comm, kP_std_div]

end Sys2Proof.Machine
end

section
/-! PROOFS. The micro-steps STEP 2 to STEP 9: extraction, scaling, the power factor and EMIT, with the signs and
ranges of what they compute. -/

namespace Sys2Proof.Machine

/-! ### Extraction (R62, R63, R64) -/

/-- EXTRACT_I reads bytes 1..3 of a frame of the right length. -/
theorem exec_extractI {s : State} (h : s.dec.frame.length = 23) :
    exec .extractI s = .next { s with
      dec := { s.dec with rawI := sext24 (le24 s.dec.frame 1) } } := by
  rw [← signedField_eq (o := 1) (by omega)]
  rfl

/-- EXTRACT_V reads bytes 4..6. -/
theorem exec_extractV {s : State} (h : s.dec.frame.length = 23) :
    exec .extractV s = .next { s with dec := { s.dec with rawV := le24 s.dec.frame 4 } } := by
  rw [← unsignedField_eq (o := 4) (by omega)]
  rfl

/-- EXTRACT_P reads bytes 10..12. -/
theorem exec_extractP {s : State} (h : s.dec.frame.length = 23) :
    exec .extractP s = .next { s with
      dec := { s.dec with rawP := sext24 (le24 s.dec.frame 10) } } := by
  rw [← signedField_eq (o := 10) (by omega)]
  rfl

/-- Settles O32: each signed field is `sext_24` of its three bytes, whose range is that of 24 bits. -/
theorem signedFieldsAreTwosComplement : Obligations.SignedFieldsAreTwosComplement :=
  ⟨rfl, rfl, fun s h => ⟨⟨exec_extractI h, sext24_range (le24_lt s.dec.frame 1)⟩,
    exec_extractP h, sext24_range (le24_lt s.dec.frame 10)⟩⟩

/-- Settles O33: the voltage field is the number its three bytes spell. -/
theorem voltageFieldIsUnsigned : Obligations.VoltageFieldIsUnsigned :=
  ⟨rfl, fun s h => ⟨exec_extractV h, Nat.le_of_lt_succ (le24_lt s.dec.frame 4)⟩⟩

/-! ### Scaling (R66, R67, R68) -/

theorem exec_scaleI (s : State) :
    exec .scaleI s = .next { s with dec := { s.dec with
      xI := (s.dec.rawI : Rat) * kI s.gainMode
      outI := out ((s.dec.rawI : Rat) * kI s.gainMode) } } := rfl

theorem exec_scaleV (s : State) :
    exec .scaleV s = .next { s with dec := { s.dec with
      xV := (s.dec.rawV : Rat) * kV
      outV := out ((s.dec.rawV : Rat) * kV) } } := rfl

theorem exec_scaleP (s : State) :
    exec .scaleP s = .next { s with dec := { s.dec with
      xP := (s.dec.rawP : Rat) * kP s.pAltDiv s.gainMode
      outP := out ((s.dec.rawP : Rat) * kP s.pAltDiv s.gainMode) } } := rfl

/-- Settles O34: the constants, reduced. -/
theorem scaleConstantsAreTheTable : Obligations.ScaleConstantsAreTheTable :=
  ⟨kI_std, kI_alt, kV_eq, kP_std, kP_alt_default, fun _ => rfl⟩

/-- Settles O35: each scale step multiplies by its constant, and the voltage's is the same in both gain modes. -/
theorem scalesAreExactProducts : Obligations.ScalesAreExactProducts :=
  ⟨rfl, rfl, rfl, fun s => ⟨exec_scaleI s, kV_eq ▸ exec_scaleV s, exec_scaleP s⟩⟩

/-- Settles O36: OUT of a number is that number times a positive factor within `REL_TOL` of one. -/
theorem outMeetsTheTolerance : Obligations.OutMeetsTheTolerance := by
  refine ⟨⟨_, out_zero⟩, fun x hx => ⟨?nonzero, out_toRat_pos_iff x, abs_out_toRat_sub_le x⟩, ?function⟩
  case nonzero => rwa [Ne, out_toRat_eq_zero_iff]
  case function =>
    rintro x _ rfl
    rfl

/-- Settles O44: each bound holds for the largest magnitude its field can have. -/
theorem scaledValuesStayInRange : Obligations.ScaledValuesStayInRange := by
  intro F hF
  have hI : 1 + 2 < F.length := by omega
  have hP : 10 + 2 < F.length := by omega
  have hV : (unsignedField F 4 : Rat) < 16777216 := by
    rw [unsignedField_eq (by omega)]
    exact_mod_cast le24_lt F 4
  refine ⟨fun g => abs_signedField_mul_lt hI (kI_pos g) ?current,
    mul_nonneg (Nat.cast_nonneg _) kV_pos.le, ?voltage,
    fun d => abs_signedField_mul_lt hP ?stdPos ?std,
    abs_signedField_mul_lt hP (kP_pos (by decide) _) ?alt⟩
  case current => cases g <;> norm_num [kI_std, kI_alt]
  case voltage =>
    calc (unsignedField F 4 : Rat) * kV ≤ 16777216 * kV := mul_le_mul_of_nonneg_right hV.le kV_pos.le
      _ < 1057 := by norm_num [kV_eq]
  case stdPos => norm_num [kP_std]
  case std => norm_num [kP_std]
  case alt => norm_num [kP_alt_default]

/-- Settles O45: every scale constant is positive and OUT keeps the sign, so the raw field's sign decides. -/
theorem signBitDecidesTheSign : Obligations.SignBitDecidesTheSign := by
  intro s hF hd
  have hV : 0 ≤ (unsignedField s.dec.frame 4 : Rat) * kV := mul_nonneg (Nat.cast_nonneg _) kV_pos.le
  exact ⟨⟨_, rfl, scaled_signedField_sign (o := 1) (by omega) (kI_pos s.gainMode)⟩,
    ⟨_, rfl, scaled_signedField_sign (o := 10) (by omega) (kP_pos hd s.gainMode)⟩,
    ⟨_, rfl, hV, (out_toRat_nonneg_iff _).2 hV⟩⟩

/-! ### The power factor (R70) -/

theorem exec_pf (s : State) :
    exec .pf s = .next { s with dec := { s.dec with
      outPF := out (powerFactor s.dec.xI s.dec.xV s.dec.xP) } } := rfl

/-- Settles O37: PF divides only where the product is not zero. -/
theorem powerFactorNeverDividesByZero : Obligations.PowerFactorNeverDividesByZero := by
  refine ⟨rfl, fun s => ⟨fun h => ?quotient, fun h => ?zero⟩⟩
  case quotient => rw [exec_pf, powerFactor_of_ne_zero _ h]
  case zero => rw [exec_pf, powerFactor_of_eq_zero _ h]

/-- Settles O38: PF gets the three scaled values, whose constants are not zero and under STD cancel into one. -/
theorem powerFactorOfRawFields : Obligations.PowerFactorOfRawFields := by
  intro s
  have hzero := scaled_product_eq_zero_iff s.dec.rawI s.dec.rawV s.gainMode
  rw [exec_scaleI, thenDo_next, exec_scaleV, thenDo_next, exec_scaleP, thenDo_next, exec_pf]
  refine ⟨_, rfl, hzero, fun h => ?zero, fun hstd hI hV => ?std⟩
  case zero => exact congrArg out (powerFactor_of_eq_zero _ (hzero.2 h))
  case std =>
    have hne := mt hzero.1 (not_or.2 ⟨hI, hV⟩)
    dsimp only
    rw [powerFactor_of_ne_zero _ hne, hstd, scaled_quotient_std]

/-! ### EMIT (R71) -/

/-- Settles O39: the chosen order holds the four quantities once each, so the deliveries are those to the
present sinks, permuted. -/
theorem emitDeliversToPresentSinks : Obligations.EmitDeliversToPresentSinks :=
  ⟨rfl, fun s => ⟨_, _, rfl, emitted_perm (Config.emitOrder s.choices) s.sinkPresent s.dec, rfl⟩⟩

/-- Each of the 24 orders of the four quantities is one that EMIT can take. -/
theorem deliveryOrder_surjective : ∀ order ∈ quantities.permutations', ∃ k, deliveryOrder k = order := by
  decide

/-- Settles O40: the 24 values of the choice are the 24 permutations. -/
theorem everyDeliveryOrderIsAdmitted : Obligations.EveryDeliveryOrderIsAdmitted :=
  ⟨deliveryOrder_perm, fun order h => deliveryOrder_surjective order (List.mem_permutations'.2 h)⟩

end Sys2Proof.Machine
end

section
/-! PROOFS. The host commands that leave the FSD as it is: POLL and NOP (spec/43_interfaces.md). -/

namespace Sys2Proof.Machine

theorem exec_poll (s : State) : exec .poll s = .next (s.emit (.tx Config.pollCmd)) := rfl

theorem exec_nop (s : State) : exec .nop s = .next s := rfl

/-- Settles O41: CMD 10 is the encoding of POLL, and POLL emits the two command bytes and no more. -/
theorem pollWritesTheCommandBytes : Obligations.PollWritesTheCommandBytes :=
  ⟨decode_encode (i := .poll) rfl, exec_poll⟩

/-- Settles O42: CMD 00 is the encoding of NOP, and NOP answers the state it was given. -/
theorem nopHasNoEffect : Obligations.NopHasNoEffect :=
  ⟨decode_encode (i := .nop) rfl, exec_nop⟩

end Sys2Proof.Machine
end

section
/-! PROOFS. Safety: every step from the invariant answers, a stream program never stops the FSD, and no step of one
reports InvalidFrame. -/

namespace Sys2Proof.Machine

/-! ### Every step from the invariant answers (R91) -/

/-- A host command completes from the invariant: NOP, POLL and RESET always do, and DRAIN takes every byte. -/
theorem exec_command_completes (c : Cmd) {s : State} (hs : s.Inv) : completes (exec (decodeCmd c) s) := by
  obtain rfl | rfl | rfl | rfl : c = 0b00 ∨ c = 0b01 ∨ c = 0b10 ∨ c = 0b11 := by bv_omega
  · exact ⟨_, rfl⟩
  · exact (execDrain_received hs).imp fun _ => And.left
  · exact ⟨_, rfl⟩
  · exact ⟨_, rfl⟩

theorem exec_decoderOps_completes {i : Instr} (hi : i ∈ decoderOps) (s : State) : completes (exec i s) :=
  (exec_decoderOps_within hi s).imp fun _ => And.left

/-- A step that runs an operation completes when its operation does. -/
theorem step_completes {s u : State} {sel : Select} {i : Instr} (hf : fetch s = .operation sel u)
    (hs : stepFaults sel u = false) (hd : decode sel = .ok i) (hx : completes (exec i u)) :
    completes (step s) := by
  rwa [step_of_decode hf hs hd]

/-- Settles O5: the environment always acts, a legal length lets a command or a byte run and both complete
from the invariant, and the decoder's operations complete in every state. -/
theorem everyStepFromInvariantCompletes : Obligations.EveryStepFromInvariantCompletes := by
  intro s hs hlegal
  cases hf : fetch s with
  | idle => exact ⟨s, by simp [step, hf]⟩
  | environment t => exact ⟨t, by simp [step, hf]⟩
  | operation sel u =>
    have ⟨hle, _⟩ := hs
    obtain ⟨c, rest, -, rfl, rfl⟩ | ⟨byte, bytes, rest, -, -, rfl, rfl⟩ | ⟨rest, -, rfl, rfl⟩ |
      ⟨c, rest, hhost, rfl, rfl⟩ := fetch_operation_cases hf
    · exact step_completes hf (stepFaults_of_legal _ hle) rfl
        (exec_command_completes c (s := { s with host := rest }) hs)
    · exact step_completes hf (stepFaults_of_legal _ hle) rfl
        ((takeByte_received byte (s := { s with host := rest, src := bytes }) hs).imp fun _ => And.left)
    · exact step_completes hf (stepFaults_call _) rfl (exec_decoderOps_completes (by decide) _)
    · have hc : c.toNat ≤ 9 := of_decide_eq_true (hlegal (.ustep c) (by simp [hhost]))
      obtain ⟨i, hi⟩ := decode_ustep_of_le hc
      exact step_completes hf (stepFaults_ustep c _) hi
        (exec_decoderOps_completes (decode_ustep_mem hi) _)

/-! ### A stream program runs its own lines only (R46, R78) -/

theorem syncStep_host {s t : State} (h : syncStep s = .next t) : t.host = s.host := by
  obtain ⟨byte, bytes, -, ⟨-, -, rfl⟩ | ⟨-, -, rfl⟩ | ⟨-, hc⟩⟩ := syncStep_cases h
  · rfl
  · rfl
  · obtain ⟨-, hhost, -⟩ := execRxComplete_blind byte _ _ hc
    exact hhost

/-- No operation changes the lines the environment has left. -/
theorem exec_host {i : Instr} {s t : State} (h : exec i s = .next t) : t.host = s.host := by
  by_cases hi : i = .drain
  · subst hi
    exact syncSteps_keep (P := fun u => u.host = s.host)
      (fun _ _ hu hstep => (syncStep_host hstep).trans hu) rfl h
  · obtain ⟨-, hhost, -⟩ := onlyDrainReadsTheSource i s t hi h
    exact hhost

/-- A step leaves the host's lines, or takes the first of them. -/
theorem step_host_suffix {s t : State} (h : step s = .next t) : t.host <:+ s.host := by
  obtain ⟨-, rfl⟩ | henv | ⟨sel, u, i, hfetch, -, -, hx⟩ := step_cases h
  · exact List.suffix_rfl
  · obtain ⟨_, _, hhost, rfl⟩ | ⟨_, _, _, hhost, rfl⟩ | ⟨_, hhost, -, rfl⟩ | ⟨_, _, hhost, rfl⟩ :=
      fetch_environment_cases henv
    all_goals exact hhost ▸ List.suffix_cons ..
  · rw [exec_host hx]
    obtain ⟨_, _, hhost, -, rfl⟩ | ⟨_, _, _, hhost, -, -, rfl⟩ | ⟨_, hhost, -, rfl⟩ |
      ⟨_, _, hhost, -, rfl⟩ := fetch_operation_cases hfetch
    all_goals exact hhost ▸ List.suffix_cons ..

theorem step_keeps_hostDriven {s t : State} (hs : s.HostDriven) (h : step s = .next t) :
    t.HostDriven := fun l hl => hs l ((step_host_suffix h).mem hl)

/-- A line of a stream program carries no STEP code at all. -/
theorem legal_of_isProgram {l : Line} (h : l.isProgram = true) : l.legal = true := by
  cases l with
  | ustep c => cases h
  | _ => rfl

/-- Settles O6: by induction on the number of steps. The invariant and the lines let the first one answer,
and it keeps both. -/
theorem hostDrivenRunsNeverStop : Obligations.HostDrivenRunsNeverStop := by
  intro k
  induction k with
  | zero => exact fun s hs _ => ⟨s, rfl, hs⟩
  | succ k ih =>
    intro s hs hprog
    have hlegal : ∀ l ∈ s.host.head?, l.legal = true := fun l hl =>
      legal_of_isProgram (hprog l (List.mem_of_mem_head? hl))
    obtain ⟨t, ht⟩ := everyStepFromInvariantCompletes s hs hlegal
    obtain ⟨u, hu, hinv⟩ := ih t (stepKeepsInvariant s t hs ht) (step_keeps_hostDriven hprog ht)
    exact ⟨u, by rw [runSteps, ht, thenDo_next, hu], hinv⟩

/-! ### InvalidFrame is never reported (R81) -/

/-- The two outputs that report InvalidFrame: its diagnostic, and a result event with its status. -/
def Event.ReportsInvalidFrame (e : Event) : Prop :=
  e = .diag .invalidFrame ∨ e = .result (.error .invalidFrame)

/-- From `s` to `t` outputs were only added, none of which reports InvalidFrame. -/
def AddsNoInvalidFrame (s t : State) : Prop :=
  ∃ new, t.trace = s.trace ++ new ∧ ∀ e ∈ new, ¬ e.ReportsInvalidFrame

theorem AddsNoInvalidFrame.of_same_trace {s t : State} (h : t.trace = s.trace) :
    AddsNoInvalidFrame s t := ⟨[], by simp [h], by simp⟩

theorem AddsNoInvalidFrame.trans {s t u : State} (h : AddsNoInvalidFrame s t)
    (h' : AddsNoInvalidFrame t u) : AddsNoInvalidFrame s u := by
  obtain ⟨new, hnew, hquiet⟩ := h
  obtain ⟨new', hnew', hquiet'⟩ := h'
  exact ⟨new ++ new', by rw [hnew', hnew, List.append_assoc],
    List.forall_mem_append.2 ⟨hquiet, hquiet'⟩⟩

theorem not_reportsInvalidFrame_of_presentDeliveries {sinks : BitVec 4} {v i p pf : OutVal} {e : Event}
    (h : e ∈ presentDeliveries sinks v i p pf) : ¬ e.ReportsInvalidFrame := by
  have hdeliver : ∃ q x, e = .deliver q x := by
    simp only [presentDeliveries, List.mem_append, List.mem_ite_nil_right, List.mem_singleton] at h
    obtain ((⟨-, rfl⟩ | ⟨-, rfl⟩) | ⟨-, rfl⟩) | ⟨-, rfl⟩ := h
    all_goals exact ⟨_, _, rfl⟩
  obtain ⟨q, x, rfl⟩ := hdeliver
  simp [Event.ReportsInvalidFrame]

/-- A completing byte outputs deliveries and an OK result, or a checksum mismatch twice (R51, R81). -/
theorem execRxComplete_addsNoInvalidFrame {byte : Byte} {s t : State} (hs : s.Inv) (hlen : s.len = 22)
    (h : execRxComplete byte s = .next t) : AddsNoInvalidFrame s t := by
  obtain ⟨u, ds, hu, houtputs⟩ := completedFrameOutputs byte s hs hlen
  obtain rfl : t = u := Host.Outcome.next.inj (h.symm.trans hu)
  obtain ⟨-, hperm, htrace, -⟩ | ⟨-, htrace, -⟩ := houtputs
  · refine ⟨_, htrace.trans (List.append_assoc ..), List.forall_mem_append.2 ⟨fun e he => ?_, ?_⟩⟩
    · exact not_reportsInvalidFrame_of_presentDeliveries (hperm.mem_iff.1 he)
    · simp [Event.ReportsInvalidFrame]
  · exact ⟨_, htrace, by simp [Event.ReportsInvalidFrame]⟩

theorem syncStep_addsNoInvalidFrame {s t : State} (hs : s.Inv) (h : syncStep s = .next t) :
    AddsNoInvalidFrame s t := by
  obtain ⟨byte, bytes, -, ⟨-, -, rfl⟩ | ⟨-, -, rfl⟩ | ⟨h22, hc⟩⟩ := syncStep_cases h
  · exact .of_same_trace rfl
  · exact .of_same_trace rfl
  · have hlen : s.len = 22 := BitVec.eq_of_toNat_eq h22
    exact execRxComplete_addsNoInvalidFrame (s := { s with src := bytes }) hs hlen hc

/-- DRAIN adds no report either: each of its byte steps runs under the invariant, which it keeps. -/
theorem syncSteps_addsNoInvalidFrame {n : Nat} {s t : State} (hs : s.Inv)
    (h : syncSteps n s = .next t) : AddsNoInvalidFrame s t := by
  have hkeep : ∀ u v : State, u.Inv ∧ AddsNoInvalidFrame s u → syncStep u = .next v →
      v.Inv ∧ AddsNoInvalidFrame s v := fun u v ⟨hu, hquiet⟩ hstep =>
    ⟨syncStep_keeps_inv hu hstep, hquiet.trans (syncStep_addsNoInvalidFrame hu hstep)⟩
  obtain ⟨-, hquiet⟩ := syncSteps_keep hkeep ⟨hs, .of_same_trace rfl⟩ h
  exact hquiet

theorem exec_command_addsNoInvalidFrame {c : Cmd} {i : Instr} {s t : State} (hs : s.Inv)
    (hd : decode (.cmd c) = .ok i) (h : exec i s = .next t) : AddsNoInvalidFrame s t := by
  obtain ⟨-, rfl⟩ | ⟨-, hdrain⟩ | ⟨-, rfl⟩ | ⟨-, rfl⟩ := exec_command_cases hd h
  · exact .of_same_trace rfl
  · exact syncSteps_addsNoInvalidFrame hs hdrain
  · exact ⟨_, emit_trace .., by simp [Event.ReportsInvalidFrame]⟩
  · exact .of_same_trace rfl

/-- Settles O20: of a stream program's lines only a command outputs anything, and what DRAIN outputs comes
from completed frames, which have the right shape. -/
theorem integratedFsdNeverReportsInvalidFrame : Obligations.IntegratedFsdNeverReportsInvalidFrame := by
  intro s t hs hprog h
  have hquiet : AddsNoInvalidFrame s t := by
    obtain ⟨-, rfl⟩ | henv | ⟨sel, u, i, hfetch, -, hd, hx⟩ := step_cases h
    · exact .of_same_trace rfl
    · exact .of_same_trace (fetch_environment_trace henv)
    · obtain ⟨c, rest, -, rfl, rfl⟩ | ⟨_, _, _, hhost, -⟩ | ⟨_, hhost, -⟩ | ⟨_, _, hhost, -⟩ :=
        fetch_operation_cases hfetch
      · exact exec_command_addsNoInvalidFrame (s := { s with host := rest }) hs hd hx
      all_goals cases isProgram_of_hostDriven hprog hhost
  obtain ⟨new, hnew, hnone⟩ := hquiet
  exact ⟨new, hnew, fun hdiag => hnone _ hdiag (.inl rfl), fun hresult => hnone _ hresult (.inr rfl)⟩

end Sys2Proof.Machine
end

section
/-! PROOFS. RESET and the hazards (spec/70_reset_and_hazards.md): RESET empties the buffer and loads the configuration
inputs, nothing else changes the configuration, and a partial frame is held. -/

namespace Sys2Proof.Machine

/-! ### RESET (R93) -/

theorem exec_reset (s : State) :
    exec .reset s =
      .next { s.clearBuffer with gainMode := s.cfgGain, sinkPresent := s.cfgSinks } := rfl

/-- Settles O43: CMD 11 is the encoding of RESET, which answers the emptied state with the configuration inputs
loaded. -/
theorem resetEmptiesAndLoadsConfiguration : Obligations.ResetEmptiesAndLoadsConfiguration :=
  ⟨decode_encode (i := .reset) rfl, fun s =>
    ⟨_, exec_reset s, clearBuffer_len s, syncStateOf_zero, rfl, rfl, rfl⟩⟩

/-! ### The configuration changes through RESET alone (R96) -/

/-- From `s` to `t` the configuration registers are unchanged. -/
def KeepsConfiguration (s t : State) : Prop :=
  t.gainMode = s.gainMode ∧ t.sinkPresent = s.sinkPresent

theorem KeepsConfiguration.trans {s t u : State} (h : KeepsConfiguration s t)
    (h' : KeepsConfiguration t u) : KeepsConfiguration s u := by
  obtain ⟨hgain, hsinks⟩ := h
  obtain ⟨hgain', hsinks'⟩ := h'
  exact ⟨hgain'.trans hgain, hsinks'.trans hsinks⟩

theorem ChangesDecoderOnly.keepsConfiguration {s t : State} (h : ChangesDecoderOnly s t) :
    KeepsConfiguration s t :=
  ⟨(congrArg State.gainMode h).trans rfl, (congrArg State.sinkPresent h).trans rfl⟩

/-- A CONFIG line sets the configuration inputs, not the registers (R93, R96). -/
theorem fetch_environment_keepsConfiguration {s t : State} (h : fetch s = .environment t) :
    KeepsConfiguration s t := by
  obtain ⟨_, _, -, rfl⟩ | ⟨_, _, _, -, rfl⟩ | ⟨_, -, -, rfl⟩ | ⟨_, _, -, rfl⟩ :=
    fetch_environment_cases h
  all_goals exact ⟨rfl, rfl⟩

/-- A completing byte runs DECODE and ends the frame, and neither sets the configuration. -/
theorem syncStep_keepsConfiguration {s t : State} (h : syncStep s = .next t) :
    KeepsConfiguration s t := by
  obtain ⟨byte, bytes, -, ⟨-, -, rfl⟩ | ⟨-, -, rfl⟩ | ⟨-, hc⟩⟩ := syncStep_cases h
  · exact ⟨rfl, rfl⟩
  · exact ⟨rfl, rfl⟩
  · obtain ⟨F, u, -, hu, rfl⟩ := execRxComplete_cases hc
    have hdecode := (execDecode_changesDecoderOnly hu).keepsConfiguration
    exact hdecode.trans ⟨endFrame_gainMode u, endFrame_sinkPresent u⟩

/-- RESET loads the configuration inputs; every other command keeps the configuration (R96). -/
theorem exec_command_configuration {c : Cmd} {i : Instr} {s t : State} (hd : decode (.cmd c) = .ok i)
    (h : exec i s = .next t) :
    KeepsConfiguration s t ∨ (c = 0b11 ∧ t.gainMode = s.cfgGain ∧ t.sinkPresent = s.cfgSinks) := by
  obtain ⟨-, rfl⟩ | ⟨-, hdrain⟩ | ⟨-, rfl⟩ | ⟨hc, rfl⟩ := exec_command_cases hd h
  · exact .inl ⟨rfl, rfl⟩
  · exact .inl (syncSteps_keep (P := KeepsConfiguration s)
      (fun _ _ hu hstep => hu.trans (syncStep_keepsConfiguration hstep)) ⟨rfl, rfl⟩ hdrain)
  · exact .inl ⟨emit_gainMode s _, emit_sinkPresent s _⟩
  · exact .inr ⟨hc, rfl, rfl⟩

theorem exec_decoderOps_keepsConfiguration {i : Instr} {s t : State} (hi : i ∈ decoderOps)
    (h : exec i s = .next t) : KeepsConfiguration s t := by
  obtain ⟨u, hu, hframe⟩ := exec_decoderOps_within hi s
  obtain rfl : u = t := by simpa [hu] using h
  exact hframe.keepsConfiguration

/-- A step keeps the configuration, or runs a RESET that loads the inputs. -/
theorem step_configuration {s t : State} (h : step s = .next t) :
    KeepsConfiguration s t ∨
      ((∃ rest, s.host = .cmd 0b11 :: rest) ∧ t.gainMode = s.cfgGain ∧ t.sinkPresent = s.cfgSinks) := by
  obtain rfl | henv | ⟨c, rest, i, hhost, hd, hx⟩ | ⟨rest, hsync⟩ | ⟨rest, i, hi, hx⟩ := step_kinds h
  · exact .inl ⟨rfl, rfl⟩
  · exact .inl (fetch_environment_keepsConfiguration henv)
  · obtain hkeep | ⟨rfl, hload⟩ := exec_command_configuration hd hx
    · exact .inl hkeep
    · exact .inr ⟨⟨rest, hhost⟩, hload⟩
  · exact .inl (syncStep_keepsConfiguration (s := { s with host := rest }) hsync)
  · exact .inl (exec_decoderOps_keepsConfiguration (s := { s with host := rest }) hi hx)

/-- Settles O4: a step that does not keep the configuration ran a RESET. -/
theorem configurationChangesByResetAlone : Obligations.ConfigurationChangesByResetAlone := by
  intro s t h hchanged
  obtain ⟨hgain, hsinks⟩ | hreset := step_configuration h
  · exact absurd hchanged (not_or.2 ⟨not_not.2 hgain, not_not.2 hsinks⟩)
  · exact hreset

/-! ### A partial frame is held (R99) -/

/-- Settles O18: in FILLING the bytes are appended in order, and then DRAIN has none left. -/
theorem partialFrameIsHeld : Obligations.PartialFrameIsHeld := by
  intro s bytes hs hpos hle
  obtain ⟨t, ht, hlen, hbytes, hframe, hdrain⟩ := execDrain_fill hs hpos hle
  have hdone : exec .drain { s with src := bytes } = .next (t.withEnvironment [] s.host) := by
    have hall := hdrain [] s.host
    rw [List.append_nil] at hall
    exact hall.trans (execDrain_nil rfl)
  have hsync : t.syncState = .filling := syncStateOf_eq_filling (by omega) (by omega)
  refine ⟨_, hdone, hlen, hsync, ht, hbytes, ?_⟩
  exact congrArg (State.withEnvironment · [] s.host) hframe

end Sys2Proof.Machine
end
